-- ==== Sys2Proof/Word.lean ====
section
/-!
DEFINITION. The word types of FBCORE: a byte of a framebuffer or of asset storage, a 16-bit operand field, a
32-bit register, a 128-bit command word.
-/

namespace Sys2Proof

/-- A byte, 0 to 255, bit 0 of weight 1 (00_scope.md R12). -/
abbrev Byte := BitVec 8

/-- One 16-bit operand field of a command word (30_encoding.md R81). -/
abbrev Half := BitVec 16

/-- A 32-bit register, or the `SRC` field of a command word. -/
abbrev Word := BitVec 32

/-- A command word (30_encoding.md R80). -/
abbrev CommandWord := BitVec 128

end Sys2Proof
end

