-- ==== Sys2Proof/Config.lean ====
section
/-!
DEFINITION. What a build of the hardware fixes (the parameters of 00_scope.md R9, a record of plain data that State
carries and no step changes) and the free values (opaque constants without a body, of which nothing can be proved).
-/

namespace Sys2Proof

/-- FREE VALUE: byte `a` of the `n`-th unspecified contents (10_state.md R35, 60_exceptions.md R234, 20_memory.md R56).
Nothing is known of it (log 2, 3, 4). -/
opaque Config.freeByte : Nat → Nat → Byte

/-- FREE VALUE: what CPULOAD would answer for `EACH_MS = 0`, which R203 says cannot arise (log 12). -/
opaque Config.loadOverZero : Word → Word

/-- What the bytes of a memory that are not listed hold: unspecified contents number `n`, or zeros after a clear. -/
inductive Background where
  | free (n : Nat)
  | zeros
deriving DecidableEq, Repr

/-- A byte memory: a background, and the bytes that differ from it as (address, byte) cells in rising order
(the form is `Memory.wf`, in Machine/Ops.lean). -/
structure Memory where
  background : Background
  cells      : List Host.Cell
deriving DecidableEq, Repr

/-- The parameters of 00_scope.md R9. -/
structure Params where
  /-- `WIDTH`: pixels per row. -/
  width           : Nat
  /-- `HEIGHT`: pixel rows. -/
  height          : Nat
  /-- `HAS_BUF1`: the second framebuffer exists. -/
  hasBuf1         : Bool
  /-- `HAS_PACER`: the Frame Pacer exists. -/
  hasPacer        : Bool
  /-- `ASSET_SIZE`: bytes of asset storage. -/
  assetSize       : Nat
  /-- `ASSET`: the contents of asset storage. -/
  asset           : Memory
  /-- `DEFAULT_RATE`: frames per second at reset. -/
  defaultRate     : Nat
  /-- `IDLE_THRESHOLD_MS`: least remaining wait at which TICK asks the host to idle. -/
  idleThresholdMs : Nat
deriving DecidableEq, Repr

/-- The constraints of R7 and R9. -/
abbrev Params.wf (p : Params) : Prop :=
  (1 ≤ p.width ∧ p.width ≤ 32767) ∧ (8 ≤ p.height ∧ p.height ≤ 32760 ∧ p.height % 8 = 0) ∧
    p.assetSize ≤ 2 ^ 32 ∧ (1 ≤ p.defaultRate ∧ p.defaultRate ≤ 1000)

/-- The build that `State.reset` is the reset of: the defaults of R9; and asset storage of the greatest size and of free
contents, since R9 leaves both OPEN (DESIGN CHOICE, log 2). -/
def Params.default : Params where
  width           := 128
  height          := 64
  hasBuf1         := true
  hasPacer        := false
  assetSize       := 2 ^ 32
  asset           := { background := .free 0, cells := [] }
  defaultRate     := 60
  idleThresholdMs := 2

end Sys2Proof
end

