-- ==== Sys2Proof/Syntax.lean ====
section
/-!
DEFINITION. The sixteen commands of FBCORE command set version 1, one constructor per row of
spec/opcode_table.json (30_encoding.md R85), and the colour type. Operands are the fields of the command word as they
stand in it; how a field is read as a number is said in Machine/Operands.lean.
-/

namespace Sys2Proof

/-- The one colour type (00_scope.md R16); its numbers in a command word are R84's. -/
inductive Colour where
  | clear
  | set
  | toggle
deriving DecidableEq, Repr

/-- The commands. The order is the opcode table's. -/
inductive Instr where
  /-- `SETPIXEL x, y, colour` (R102). -/
  | setpixel (x y : Half) (c : Colour)
  /-- `GETPIXEL x, y` (R103). -/
  | getpixel (x y : Half)
  /-- `CLEAR` (R104). -/
  | clear
  /-- `HLINE x, y, w, colour` (R121). -/
  | hline (x y w : Half) (c : Colour)
  /-- `VLINE x, y, h, colour` (R122). -/
  | vline (x y h : Half) (c : Colour)
  /-- `LINE x0, y0, x1, y1, colour` (R136). -/
  | line (x0 y0 x1 y1 : Half) (c : Colour)
  /-- `FILLRECT x, y, w, h, colour` (R123). -/
  | fillrect (x y w h : Half) (c : Colour)
  /-- `DRAWBITMAP x, y, src, w, h, colour` (R149). -/
  | drawbitmap (x y : Half) (src : Word) (w h : Half) (c : Colour)
  /-- `DRAWCOMPRESSED x, y, src, colour` (R167). -/
  | drawcompressed (x y : Half) (src : Word) (c : Colour)
  /-- `ENABLEDB` (R181). -/
  | enabledb
  /-- `PRESENT clr` (R182). -/
  | present (clr : Bool)
  /-- `WAITP` (R185). -/
  | waitp
  /-- `SETRATE rate` (R201). -/
  | setrate (rate : Half)
  /-- `TICK` (R202). -/
  | tick
  /-- `CPULOAD` (R203). -/
  | cpuload
  /-- `EVERYN n` (R204). -/
  | everyn (n : Half)
deriving DecidableEq, Repr

/-- Does the command belong to the optional Frame Pacer (46_frame_pacer.md R200)? -/
def Instr.isPacer : Instr → Bool
  | .setpixel _ _ _ => false
  | .getpixel _ _ => false
  | .clear => false
  | .hline _ _ _ _ => false
  | .vline _ _ _ _ => false
  | .line _ _ _ _ _ => false
  | .fillrect _ _ _ _ _ => false
  | .drawbitmap _ _ _ _ _ _ => false
  | .drawcompressed _ _ _ _ => false
  | .enabledb => false
  | .present _ => false
  | .waitp => false
  | .setrate _ => true
  | .tick => true
  | .cpuload => true
  | .everyn _ => true

end Sys2Proof
end

