-- ==== Sys2Proof/Machine/Operands.lean ====
section
/-!
DEFINITION. How operands are read (30_encoding.md R83), the pixel map (20_memory.md R51), and the points each drawing
command visits, as lists in the order of its rule. All arithmetic is over unbounded integers (00_scope.md R13); `/` and `%`
on `Int` with a positive divisor are the floor `div` and `mod` of that rule.
-/

namespace Sys2Proof

/-! ### Fields as numbers (R83) -/

/-- `sext_16`. -/
def sext16 (v : Half) : Int := v.toInt
/-- `zext_16`. -/
def zext16 (v : Half) : Nat := v.toNat
/-- `zext_32`. -/
def zext32 (v : Word) : Nat := v.toNat
/-- `ceil8` (R13). -/
def ceil8 (h : Nat) : Nat := (h + 7) / 8

/-! ### Geometry -/

/-- `BANDS` (R8). -/
def Params.bands (p : Params) : Nat := p.height / 8
/-- `FBSIZE` (R8). -/
def Params.fbSize (p : Params) : Nat := p.width * p.bands

/-- The pixel is on screen (R15). -/
abbrev Params.onScreen (p : Params) (x y : Int) : Prop :=
  (0 ≤ x ∧ x < p.width) ∧ (0 ≤ y ∧ y < p.height)

/-- `index(x, y)`, the byte of an on-screen pixel (R51). -/
def Params.byteIndex (p : Params) (x y : Int) : Nat := (x + y / 8 * p.width).toNat

/-- `bit(y)`, the bit of a pixel in its byte (R51). -/
def bitIndex (y : Int) : Nat := (y % 8).toNat

/-! ### Points -/

/-- The on-screen numbers among `lo, lo+1, …, lo+n-1` for a screen of extent `limit`, ascending. The others of the run are
off screen, where `PixelOp` does nothing (41_runs_and_rect.md R121, R122; log 13). -/
def span (lo : Int) (n limit : Nat) : List Nat :=
  List.range' lo.toNat (min (lo + n).toNat limit - lo.toNat)

/-- The points of `HLINE x, y, w` (R121). -/
def Params.hlinePoints (p : Params) (x y : Int) (w : Nat) : List (Int × Int) :=
  (span x w p.width).map fun px : Nat => ((px : Int), y)

/-- The points of `VLINE x, y, h` (R122). -/
def Params.vlinePoints (p : Params) (x y : Int) (h : Nat) : List (Int × Int) :=
  (span y h p.height).map fun py : Nat => (x, (py : Int))

/-- The points of `FILLRECT x, y, w, h`: vertical runs, left to right (R123). -/
def Params.rectPoints (p : Params) (x y : Int) (w h : Nat) : List (Int × Int) :=
  (span x w p.width).flatMap fun px : Nat => (span y h p.height).map fun py : Nat => ((px : Int), (py : Int))

/-- The constants of a line after the two exchanges of R136. -/
structure LineSetup where
  steep : Bool
  u0    : Int
  v0    : Int
  dx    : Int
  dy    : Int
  ystep : Int
deriving DecidableEq, Repr

/-- The exchange of ends and the constants of R136, for ends given as (major, minor) coordinates. -/
def lineEnds (steep : Bool) (u0 v0 u1 v1 : Int) : LineSetup :=
  if u0 > u1 then
    { steep, u0 := u1, v0 := v1, dx := u0 - u1, dy := (v0 - v1).natAbs, ystep := if v1 < v0 then 1 else -1 }
  else
    { steep, u0 := u0, v0 := v0, dx := u1 - u0, dy := (v1 - v0).natAbs, ystep := if v0 < v1 then 1 else -1 }

/-- The exchange of the roles of the axes (R136), strict, so that an exact diagonal is not steep. -/
def lineSetup (x0 y0 x1 y1 : Int) : LineSetup :=
  if (y1 - y0).natAbs > (x1 - x0).natAbs then lineEnds true y0 x0 y1 x1 else lineEnds false x0 y0 x1 y1

/-- The loop of R136: `n` more steps of the major axis from `(u, v)` with error term `err`. -/
def lineWalk (l : LineSetup) : Nat → Int → Int → Int → List (Int × Int)
  | 0, _, _, _ => []
  | n + 1, u, v, err =>
    (if l.steep then (v, u) else (u, v)) ::
      (if err - l.dy < 0 then lineWalk l n (u + 1) (v + l.ystep) (err - l.dy + l.dx)
       else lineWalk l n (u + 1) v (err - l.dy))

/-- The points of `LINE x0, y0, x1, y1` in the order R136 emits them. -/
def linePoints (x0 y0 x1 y1 : Int) : List (Int × Int) :=
  let l := lineSetup x0 y0 x1 y1
  lineWalk l (l.dx.toNat + 1) l.u0 l.v0 (l.dx / 2)

/-- The points of the column byte `m` with its top at `(cx, ytop)`: those whose bit is 1 (43_bitmap_raw.md R146). -/
def columnPoints (cx ytop : Int) (m : Byte) : List (Int × Int) :=
  ((List.range 8).filter fun b : Nat => m.getLsbD b).map fun b : Nat => (cx, ytop + (b : Int))

/-! ### Colours as operations on a byte (R16) -/

/-- A colour applied to byte `d` under mask `m`. -/
def Colour.apply (c : Colour) (d m : Byte) : Byte :=
  match c with
  | .set => d ||| m
  | .clear => d &&& ~~~m
  | .toggle => d ^^^ m

/-- A colour applied to one pixel. -/
def Colour.applyBit (c : Colour) (p : Bool) : Bool :=
  match c with
  | .set => true
  | .clear => false
  | .toggle => !p

end Sys2Proof
end

