-- ==== Sys2Proof/Machine/State.lean ====
section
/-!
DEFINITION. The whole state of FBCORE (10_state.md R20), the ports through which the host, the sink, the clock and reset
act on it (00_scope.md R10, R11), why a step can stop, and the state after reset (R35). Plain data throughout.
-/

namespace Sys2Proof.Machine

/-- Faults: there are none. The block has no trap mechanism; its four error conditions set sticky flags, end the command
and let the machine go on (60_exceptions.md R220, R222), so no meaning raises a fault (log 16). -/
inductive Fault : Type
deriving DecidableEq, Repr

/-- Refusals. -/
inductive Refusal where
  /-- Raised only by an arm of `exec` whose instruction has no meaning yet; safe. No arm raises it now. -/
  | notModelled (mnemonic : String)
deriving DecidableEq, Repr

/-- The index of a framebuffer, one bit (R27, R29). -/
inductive BufIdx where
  | fb0
  | fb1
deriving DecidableEq, Repr

/-- `MODE` (R28). -/
inductive Mode where
  | singleBuffer
  | doubleBuffer
deriving DecidableEq, Repr

/-- The hidden registers of the compressed decoder (R31). -/
structure Rle where
  /-- `RLE_BYTE`: the current stream byte. -/
  byte : Byte
  /-- `RLE_BIT`: the one-hot mask of the next bit; 0x100 means the byte is used up. -/
  bit  : BitVec 9
  /-- `RLE_POS`: the count of stream bytes taken. -/
  pos  : Word
  /-- `RLE_ACC`: the byte accumulator. -/
  acc  : Byte
  /-- `RLE_NACC`: how many pixels the accumulator holds. -/
  nacc : BitVec 4
deriving DecidableEq, Repr

/-- An output event the environment observes (00_scope.md R14). -/
inductive Output where
  /-- `PaintScreen(k, frame)`: buffer `k` is handed to the sink with these `FBSIZE` bytes (R33). -/
  | paintScreen (k : BufIdx) (frame : List Byte)
  /-- `IdleReq` (46_frame_pacer.md R205). -/
  | idleReq
deriving DecidableEq, Repr

/-- Who moves next (R10). -/
inductive Turn where
  /-- The host and the core, whose moves alternate: while `EXEC = 0` the host issues the word on offer, while `EXEC = 1` the
  core goes on with the command in `CUR`. -/
  | core
  /-- The sink reports the end of a presentation (45_swap_controller.md R183). -/
  | sinkDone
  /-- The clock input `CLK_MS` takes a value (46_frame_pacer.md R206). -/
  | clock (ms : Word)
  /-- The reset input (70_reset_and_hazards.md R250). -/
  | reset
deriving DecidableEq, Repr

/-- An error condition (60_exceptions.md R221). -/
inductive ErrorKind where
  | illegal
  | alloc
  | stream
  | asset
deriving DecidableEq, Repr

/-- The state. -/
structure State where
  /-- The parameters (R34); no step changes them. -/
  params       : Params
  /-- `FB0`, the primary buffer (R26). -/
  fb0          : Memory
  /-- `FB1`, the second buffer; inert when not `HAS_BUF1` (R26, log 10). -/
  fb1          : Memory
  /-- `ACTIVE` (R27). -/
  active       : BufIdx
  /-- `MODE` (R28). -/
  mode         : Mode
  /-- `SINK_BUSY` (R29). -/
  sinkBusy     : Bool
  /-- `SINK_BUF` (R29). -/
  sinkBuf      : BufIdx
  /-- `CUR`, the operand latch (R21). -/
  cur          : CommandWord
  /-- `EXEC` (R30). -/
  execBit      : Bool
  /-- `PHASE` (R30). -/
  phase        : Bool
  /-- `ERR_ILLEGAL` (R23). -/
  errIllegal   : Bool
  /-- `ERR_ALLOC` (R23). -/
  errAlloc     : Bool
  /-- `ERR_STREAM` (R23). -/
  errStream    : Bool
  /-- `ERR_ASSET` (R23). -/
  errAsset     : Bool
  /-- `RESULT` (R24). -/
  result       : Word
  /-- The decoder registers (R31). -/
  rle          : Rle
  /-- `EACH_MS` (R32). -/
  eachMs       : Word
  /-- `NEXT_START` (R32). -/
  nextStart    : Word
  /-- `LAST_START` (R32). -/
  lastStart    : Word
  /-- `LAST_DUR` (R32). -/
  lastDur      : Word
  /-- `FRAMECOUNT`, two's complement (R32). -/
  frameCount   : Word
  /-- `JUST_RENDERED` (R32). -/
  justRendered : Bool
  /-- The input `CLK_MS` as it stands (R206, log 8). -/
  clkMs        : Word
  /-- The words the host still has to issue; the first is on offer at the command port (R92, log 6). -/
  host         : List CommandWord
  /-- Who moves next; when it is empty, the host and the core (log 6). -/
  turns        : List Turn
  /-- The output events so far, oldest first (R33, log 9). -/
  out          : List Output
  /-- The model's own counter: the number of the next unspecified contents (log 3). -/
  freeCount    : Nat
deriving DecidableEq, Repr

/-- Unspecified contents number `n` (R35, 60_exceptions.md R234). -/
def unspecified (n : Nat) : Memory := { background := .free n, cells := [] }

/-- The state after reset (R35) of hardware with parameters `p`, its unspecified contents numbered from `n`, and with
nothing at the ports. -/
def State.atReset (p : Params) (n : Nat) : State where
  params       := p
  fb0          := unspecified n
  fb1          := unspecified (n + 1)
  active       := .fb0
  mode         := .singleBuffer
  sinkBusy     := false
  sinkBuf      := .fb0
  cur          := 0
  execBit      := false
  phase        := false
  errIllegal   := false
  errAlloc     := false
  errStream    := false
  errAsset     := false
  result       := 0
  rle          := { byte := 0, bit := 0x100, pos := 0, acc := 0, nacc := 0 }
  eachMs       := BitVec.ofNat 32 (1000 / p.defaultRate)
  nextStart    := 0
  lastStart    := 0
  lastDur      := 0
  frameCount   := 0xFFFFFFFF
  justRendered := false
  clkMs        := 0
  host         := []
  turns        := []
  out          := []
  freeCount    := n + 2

/-- The machine right after reset. -/
def State.reset : State := State.atReset Params.default 1

end Sys2Proof.Machine
end

