-- ==== Sys2Proof/Machine/Ops.lean ====
section
/-!
DEFINITION. The named operations over memory and registers that the meanings are written in: byte memories, the pixel and
column-byte writes, the buffers of a state, raising an error (the block's whole trap entry, 60_exceptions.md R222), ending a
command, answering in `RESULT`.
-/

namespace Sys2Proof

/-! ### Byte memories -/

/-- What an unlisted byte holds: the one definition of it (log 3). -/
def Memory.unlisted (m : Memory) (a : Nat) : Byte :=
  match m.background with
  | .free n => Config.freeByte n a
  | .zeros => 0

/-- `MemRead` of one byte (00_scope.md R14). -/
def Memory.read (m : Memory) (a : Nat) : Byte :=
  match m.cells.lookup a with
  | some v => v
  | none => m.unlisted a

/-- Put a cell in its place in the rising order, replacing the cell of the same address. -/
def insertCell (a : Nat) (v : Byte) : List Host.Cell → List Host.Cell
  | [] => [(a, v)]
  | c :: cs => if a < c.1 then (a, v) :: c :: cs else if a = c.1 then (a, v) :: cs else c :: insertCell a v cs

/-- `MemWrite` of one byte (R14). A byte equal to the unlisted one is not listed. -/
def Memory.write (m : Memory) (a : Nat) (v : Byte) : Memory :=
  { m with
    cells := if v = m.unlisted a then m.cells.filter (fun c => c.1 != a) else insertCell a v m.cells }

/-- The memory after every byte has been written with 0 (40_pixel_access.md R104). -/
def Memory.cleared : Memory := { background := .zeros, cells := [] }

/-- The canonical form of a memory of `size` bytes: addresses strictly rising and inside it, no listed byte equal to the
unlisted one. -/
abbrev Memory.wf (size : Nat) (m : Memory) : Prop :=
  m.cells.Pairwise (fun c d => c.1 < d.1) ∧ ∀ c ∈ m.cells, c.1 < size ∧ c.2 ≠ m.unlisted c.1

/-- The bytes 0 to `size - 1` in order: `Snapshot` (45_swap_controller.md R182). -/
def Memory.bytes (m : Memory) (size : Nat) : List Byte := (List.range size).map m.read

/-! ### Pixels -/

/-- `PixelOp` (40_pixel_access.md R100). -/
def pixelOp (p : Params) (c : Colour) (x y : Int) (m : Memory) : Memory :=
  if p.onScreen x y then
    m.write (p.byteIndex x y) (c.apply (m.read (p.byteIndex x y)) (1#8 <<< bitIndex y))
  else m

/-- `PixelGet` (R101); 0 off screen. -/
def pixelGet (p : Params) (x y : Int) (m : Memory) : Bool :=
  if p.onScreen x y then (m.read (p.byteIndex x y)).getLsbD (bitIndex y) else false

/-- `PixelOp` on each point, in order. -/
def plot (p : Params) (c : Colour) (pts : List (Int × Int)) (m : Memory) : Memory :=
  pts.foldl (fun m q => pixelOp p c q.1 q.2 m) m

/-- `ColumnByteOp` (43_bitmap_raw.md R146). -/
def columnByteOp (p : Params) (c : Colour) (cx ytop : Int) (b : Byte) (m : Memory) : Memory :=
  plot p c (columnPoints cx ytop b) m

/-- `Apply` (R147). -/
def applyAt (c : Colour) (i : Nat) (v : Byte) (m : Memory) : Memory := m.write i (c.apply (m.read i) v)

/-- One part of `BandSplitOp`: the byte of column `cx` in band `band`, if it is on screen (R147). -/
def bandPart (p : Params) (c : Colour) (cx band : Int) (v : Byte) (m : Memory) : Memory :=
  if (0 ≤ cx ∧ cx < p.width) ∧ 0 ≤ band ∧ band ≤ (p.bands : Int) - 1 then
    applyAt c (band * p.width + cx).toNat v m
  else m

/-- `BandSplitOp` (R147), the byte-wise form that hardware uses; R148 says it agrees with `columnByteOp`. -/
def bandSplitOp (p : Params) (c : Colour) (cx y a : Int) (b : Byte) (m : Memory) : Memory :=
  let bRow := y / 8 + a
  let yOff := bitIndex y
  let upper := bandPart p c cx bRow (b <<< yOff) m
  if yOff = 0 then upper else bandPart p c cx (bRow + 1) (b >>> (8 - yOff)) upper

/-- Write the column bytes of a bitmap of width `w`, the first of them being its byte number `k`: byte `k` goes to column
`k mod w` of band `k div w` (R149; 44_bitmap_rle.md R166). -/
def blitBytes (p : Params) (c : Colour) (x y : Int) (w : Nat) : Nat → List Byte → Memory → Memory
  | _, [], m => m
  | k, b :: bs, m =>
    blitBytes p c x y w (k + 1) bs
      (columnByteOp p c (x + ((k % w : Nat) : Int)) (y + 8 * ((k / w : Nat) : Int)) b m)

/-! ### Asset storage -/

/-- `AssetRead` (20_memory.md R56); `none` where it raises `ERR_ASSET`. -/
def assetRead (p : Params) (a : Nat) : Option Byte :=
  if a < p.assetSize then some (p.asset.read a) else none

/-- The `n` bytes of asset storage from `a` upwards, read in order; `none` at the first that is out of range. -/
def assetBytes (p : Params) : Nat → Nat → Option (List Byte)
  | _, 0 => some []
  | a, n + 1 =>
    match assetRead p a with
    | none => none
    | some b => (assetBytes p (a + 1) n).map (b :: ·)

namespace Machine

/-! ### The buffers of a state -/

/-- The other buffer: `1 - k`. -/
def BufIdx.other : BufIdx → BufIdx
  | .fb0 => .fb1
  | .fb1 => .fb0

/-- Framebuffer `k`. -/
def State.buf (s : State) (k : BufIdx) : Memory :=
  match k with
  | .fb0 => s.fb0
  | .fb1 => s.fb1

/-- Replace framebuffer `k`. -/
def State.setBuf (s : State) (k : BufIdx) (m : Memory) : State :=
  { s with
    fb0 := if k = .fb0 then m else s.fb0
    fb1 := if k = .fb1 then m else s.fb1 }

/-- Pixel `(x, y)` of buffer `k`, 0 off screen. -/
def State.pixel (s : State) (k : BufIdx) (x y : Int) : Bool := pixelGet s.params x y (s.buf k)

/-- Change the active buffer (10_state.md R27). -/
def State.draw (s : State) (f : Memory → Memory) : State := s.setBuf s.active (f (s.buf s.active))

/-- The active buffer's contents become unspecified (60_exceptions.md R234): fresh free values (log 4). -/
def State.spoil (s : State) : State :=
  { s.draw (fun _ => unspecified s.freeCount) with freeCount := s.freeCount + 1 }

/-! ### Ending a command -/

/-- `EXEC <- 0`. -/
def State.finish (s : State) : State := { s with execBit := false }

/-- `raise ERR_X` (60_exceptions.md R222), the one operation by which every error is taken: the sticky flag is set, the
command ends. -/
def State.raise (s : State) (e : ErrorKind) : State :=
  { s with
    errIllegal := s.errIllegal || decide (e = .illegal)
    errAlloc   := s.errAlloc || decide (e = .alloc)
    errStream  := s.errStream || decide (e = .stream)
    errAsset   := s.errAsset || decide (e = .asset)
    execBit    := false }

/-- `RESULT <- v; EXEC <- 0`. -/
def State.answer (s : State) (v : Word) : State := { s with result := v, execBit := false }

/-- `emit` (00_scope.md R14). -/
def State.emit (s : State) (o : Output) : State := { s with out := s.out ++ [o] }

/-- Hand buffer `k` to the sink (45_swap_controller.md R182): `SINK_BUF`, `SINK_BUSY` and the `PaintScreen` event with the
bytes of the buffer as they stand. -/
def State.handOff (s : State) (k : BufIdx) : State :=
  { s with sinkBuf := k, sinkBusy := true }.emit (.paintScreen k ((s.buf k).bytes s.params.fbSize))

/-- A drawing command's end: draw in the active buffer, `EXEC <- 0`. -/
def State.drawn (s : State) (f : Memory → Memory) : State := (s.draw f).finish

/-! ### The other agents' steps -/

/-- The sink's completion step (R183): enabled only while `SINK_BUSY = 1`; where it is not enabled nothing changes. -/
def State.sinkDone (s : State) : State := { s with sinkBusy := false }

/-- The reset event (70_reset_and_hazards.md R250). The parameters, the clock, the words the host still has to issue, the
turns and the observed events are not the block's state and stay (log 15). -/
def State.resetEvent (s : State) : State :=
  { State.atReset s.params s.freeCount with
    clkMs := s.clkMs
    host  := s.host
    turns := s.turns
    out   := s.out }

/-- The issue step of a legal word (30_encoding.md R80; 10_state.md R30): the word goes into `CUR`, `EXEC <- 1`, `PHASE <- 0`. -/
def State.issue (s : State) (w : CommandWord) : State :=
  { s with cur := w, execBit := true, phase := false }

end Machine

end Sys2Proof
end

