-- ==== Sys2Proof/Machine/Bitmap.lean ====
section
/-!
DEFINITION. The raw bitmap blitter DRAWBITMAP (43_bitmap_raw.md).
-/

namespace Sys2Proof.Machine

/-- DRAWBITMAP (R149). All `w * ceil8(h)` bytes are read, in rising order of address, whether or not they are visible; where
one is out of range the command ends with `ERR_ASSET` and the active buffer is unspecified (60_exceptions.md R234). The reads
are done before the writes, which nothing can observe (20_memory.md R55; log 13). -/
def execDrawbitmap (x y : Half) (src : Word) (w h : Half) (c : Colour) (s : State) : Host.Outcome State Fault Refusal :=
  .next
    (match assetBytes s.params (zext32 src) (zext16 w * ceil8 (zext16 h)) with
     | some bs => s.drawn (blitBytes s.params c (sext16 x) (sext16 y) (zext16 w) 0 bs)
     | none => s.spoil.raise .asset)

end Sys2Proof.Machine
end

