-- ==== Sys2Proof/Machine/Compressed.lean ====
section
/-!
DEFINITION. The compressed bitmap stream, its decoder and DRAWCOMPRESSED (44_bitmap_rle.md). The decoder works on the
decoder registers of 10_state.md R31 and yields the column bytes it flushes, which are then written as the raw blitter writes
its bytes (R166); that the writes come after the decoding cannot be observed (20_memory.md R55; log 13).
-/

namespace Sys2Proof.Machine

/-- A result of the decoder: a value, or the error it raised; with the decoder registers as it left them. -/
inductive Decoded (α : Type) where
  | ok (v : α) (r : Rle)
  | err (e : ErrorKind) (r : Rle)
deriving DecidableEq, Repr

/-- The cursor that every decode starts from (R167). -/
def Rle.fresh : Rle := { byte := 0, bit := 0x100, pos := 0, acc := 0, nacc := 0 }

/-- Take the next bit of the current byte (R161). -/
def Rle.takeBit (r : Rle) : Bool × Rle :=
  (decide ((r.byte.zeroExtend 9 &&& r.bit) ≠ 0), { r with bit := r.bit <<< 1 })

/-- One bit of the stream at `src` (R161): a byte is fetched only when one of its bits is needed. -/
def nextBit (p : Params) (src : Nat) (r : Rle) : Decoded Bool :=
  if r.bit = 0x100 then
    match assetRead p (src + r.pos.toNat) with
    | none => .err .asset r
    | some b =>
      let t := Rle.takeBit { r with byte := b, pos := r.pos + 1, bit := 0x01 }
      .ok t.1 t.2
  else
    let t := r.takeBit
    .ok t.1 t.2

/-- `NextBits(n)` (R161): the first bit taken is bit 0 of the value. -/
def nextBits (p : Params) (src : Nat) : Nat → Rle → Decoded Nat
  | 0, r => .ok 0 r
  | n + 1, r =>
    match nextBit p src r with
    | .err e r1 => .err e r1
    | .ok b r1 =>
      match nextBits p src n r1 with
      | .err e r2 => .err e r2
      | .ok v r2 => .ok (b.toNat + 2 * v) r2

/-- The size selector (R163): zero bits up to a one; each zero adds 2 to the width `n`; `left` zeros are still allowed. -/
def readSelector (p : Params) (src : Nat) : Nat → Nat → Rle → Decoded Nat
  | left, n, r =>
    match nextBit p src r with
    | .err e r1 => .err e r1
    | .ok true r1 => .ok n r1
    | .ok false r1 =>
      match left with
      | 0 => .err .stream r1
      | left' + 1 => readSelector p src left' (n + 2) r1

/-- `ReadRun` (R163): the length of the next run, at least 1. -/
def readRun (p : Params) (src : Nat) (r : Rle) : Decoded Nat :=
  match readSelector p src 8 1 r with
  | .err e r1 => .err e r1
  | .ok n r1 =>
    match nextBits p src n r1 with
    | .err e r2 => .err e r2
    | .ok v r2 => .ok (v + 1) r2

/-- `EmitPixel` (R165); the bytes flushed so far are in `out`, newest first. -/
def emitPixel (colour : Bool) (r : Rle) (out : List Byte) : Rle × List Byte :=
  let acc := if colour then r.acc ||| (1#8 <<< r.nacc.toNat) else r.acc
  if r.nacc + 1 = 8 then ({ r with acc := 0, nacc := 0 }, acc :: out)
  else ({ r with acc := acc, nacc := r.nacc + 1 }, out)

/-- A run of `n` pixels (R167). -/
def emitRun (colour : Bool) : Nat → Rle → List Byte → Rle × List Byte
  | 0, r, out => (r, out)
  | n + 1, r, out =>
    let t := emitPixel colour r out
    emitRun colour n t.1 t.2

/-- The loop of R167 with `remaining = NPIX - done` pixels missing; every run has at least one, so `fuel = NPIX` passes are
enough. A run longer than what is missing is an over-run, found before any of its pixels is emitted (R168). -/
def decodeRuns (p : Params) (src : Nat) : Nat → Nat → Bool → Rle → List Byte → Decoded (List Byte)
  | 0, _, _, r, out => .ok out.reverse r
  | fuel + 1, remaining, colour, r, out =>
    if remaining = 0 then .ok out.reverse r
    else
      match readRun p src r with
      | .err e r1 => .err e r1
      | .ok run r1 =>
        if run > remaining then .err .stream r1
        else
          let t := emitRun colour run r1 out
          decodeRuns p src fuel (remaining - run) (!colour) t.1 t.2

/-- A decoded image: its width and its column bytes in the order they are flushed, a raw bitmap of that width (R166). -/
structure Image where
  width : Nat
  bytes : List Byte
deriving DecidableEq, Repr

/-- The header (R162): width, height, first colour. -/
def readHeader (p : Params) (src : Nat) (r : Rle) : Decoded (Nat × Nat × Bool) :=
  match nextBits p src 8 r with
  | .err e r1 => .err e r1
  | .ok w8 r1 =>
    match nextBits p src 8 r1 with
    | .err e r2 => .err e r2
    | .ok h8 r2 =>
      match nextBits p src 1 r2 with
      | .err e r3 => .err e r3
      | .ok c1 r3 => .ok (w8 + 1, h8 + 1, decide (c1 = 1)) r3

/-- The whole decoding of the stream at `src` (R167); `NPIX = width * 8 * ceil8(height)` (R164). -/
def decodeStream (p : Params) (src : Nat) : Decoded Image :=
  match readHeader p src Rle.fresh with
  | .err e r => .err e r
  | .ok (width, height, colour) r =>
    match decodeRuns p src (width * 8 * ceil8 height) (width * 8 * ceil8 height) colour r [] with
    | .err e r1 => .err e r1
    | .ok bs r1 => .ok { width := width, bytes := bs } r1

/-- DRAWCOMPRESSED (R167). On an error the flag is set and the active buffer is unspecified (R168; 60_exceptions.md R234). -/
def execDrawcompressed (x y : Half) (src : Word) (c : Colour) (s : State) : Host.Outcome State Fault Refusal :=
  .next
    (match decodeStream s.params (zext32 src) with
     | .ok img r => { s with rle := r }.drawn (blitBytes s.params c (sext16 x) (sext16 y) img.width 0 img.bytes)
     | .err e r => { s with rle := r }.spoil.raise e)

end Sys2Proof.Machine
end

