-- ==== Sys2Proof/Machine/Line.lean ====
section
/-!
DEFINITION. The line command LINE (42_line.md); its points are `linePoints` of Machine/Operands.lean.
-/

namespace Sys2Proof.Machine

/-- LINE (R136): the one command that reads `C` and `D` as signed. -/
def execLine (x0 y0 x1 y1 : Half) (c : Colour) (s : State) : Host.Outcome State Fault Refusal :=
  .next (s.drawn (plot s.params c (linePoints (sext16 x0) (sext16 y0) (sext16 x1) (sext16 y1))))

end Sys2Proof.Machine
end

