-- ==== Sys2Proof/Machine/Pacer.lean ====
section
/-!
DEFINITION. The optional Frame Pacer: SETRATE, TICK, CPULOAD, EVERYN (46_frame_pacer.md). On hardware without the pacer, and
for an operand outside its range, no legal word of the command exists: the meaning is then that of an illegal word (R200;
30_encoding.md R87; log 11).
-/

namespace Sys2Proof.Machine

/-- SETRATE (R201): `EACH_MS <- 1000 div rate`, nothing else. -/
def execSetrate (rate : Half) (s : State) : Host.Outcome State Fault Refusal :=
  .next
    (if s.params.hasPacer ∧ 1 ≤ zext16 rate ∧ zext16 rate ≤ 1000 then
       { s with eachMs := BitVec.ofNat 32 (1000 / zext16 rate) }.finish
     else s.raise .illegal)

/-- The measure half-step of TICK (R202, state RENDERED). -/
def tickMeasure (s : State) : State :=
  { s with lastDur := s.clkMs - s.lastStart, justRendered := false }.answer 0

/-- TICK too early (R202, R205): the idle request when enough time is left. -/
def tickEarly (s : State) : State :=
  (if s.params.idleThresholdMs ≤ s.nextStart.toNat - s.clkMs.toNat then s.emit .idleReq else s).answer 0

/-- TICK at the deadline (R202): the frame is granted. -/
def tickGrant (s : State) : State :=
  { s with
    justRendered := true
    lastStart    := s.clkMs
    nextStart    := s.clkMs + s.eachMs
    frameCount   := s.frameCount + 1 }.answer 1

/-- TICK (R202). -/
def execTick (s : State) : Host.Outcome State Fault Refusal :=
  .next
    (if s.params.hasPacer then
       if s.justRendered then tickMeasure s
       else if s.clkMs.toNat < s.nextStart.toNat then tickEarly s
       else tickGrant s
     else s.raise .illegal)

/-- The load figure of CPULOAD (R203); the product does not wrap, only the quotient is reduced to 32 bits. For
`EACH_MS = 0`, which cannot arise (R203), a free value (log 12). -/
def cpuLoad (s : State) : Word :=
  if s.eachMs = 0 then Config.loadOverZero s.lastDur
  else BitVec.ofNat 32 (s.lastDur.toNat * 100 / s.eachMs.toNat)

/-- CPULOAD (R203). -/
def execCpuload (s : State) : Host.Outcome State Fault Refusal :=
  .next (if s.params.hasPacer then s.answer (cpuLoad s) else s.raise .illegal)

/-- EVERYN (R204): does `n` divide `FRAMECOUNT`, read as a signed number? -/
def execEveryn (n : Half) (s : State) : Host.Outcome State Fault Refusal :=
  .next
    (if s.params.hasPacer ∧ 1 ≤ zext16 n then
       s.answer (if s.frameCount.toInt % (zext16 n : Int) = 0 then 1 else 0)
     else s.raise .illegal)

end Sys2Proof.Machine
end

