-- ==== Sys2Proof/Machine/Pixel.lean ====
section
/-!
DEFINITION. The pixel access commands SETPIXEL, GETPIXEL, CLEAR (40_pixel_access.md).
-/

namespace Sys2Proof.Machine

/-- SETPIXEL (R102). -/
def execSetpixel (x y : Half) (c : Colour) (s : State) : Host.Outcome State Fault Refusal :=
  .next (s.drawn (pixelOp s.params c (sext16 x) (sext16 y)))

/-- GETPIXEL (R103): the pixel of the active buffer, zero-extended; 0 off screen. -/
def execGetpixel (x y : Half) (s : State) : Host.Outcome State Fault Refusal :=
  .next (s.answer (if s.pixel s.active (sext16 x) (sext16 y) then 1 else 0))

/-- CLEAR (R104). -/
def execClear (s : State) : Host.Outcome State Fault Refusal :=
  .next (s.drawn fun _ => Memory.cleared)

end Sys2Proof.Machine
end

