-- ==== Sys2Proof/Machine/Runs.lean ====
section
/-!
DEFINITION. The run and rectangle commands HLINE, VLINE, FILLRECT (41_runs_and_rect.md).
-/

namespace Sys2Proof.Machine

/-- HLINE (R121). -/
def execHline (x y w : Half) (c : Colour) (s : State) : Host.Outcome State Fault Refusal :=
  .next (s.drawn (plot s.params c (s.params.hlinePoints (sext16 x) (sext16 y) (zext16 w))))

/-- VLINE (R122). -/
def execVline (x y h : Half) (c : Colour) (s : State) : Host.Outcome State Fault Refusal :=
  .next (s.drawn (plot s.params c (s.params.vlinePoints (sext16 x) (sext16 y) (zext16 h))))

/-- FILLRECT (R123). -/
def execFillrect (x y w h : Half) (c : Colour) (s : State) : Host.Outcome State Fault Refusal :=
  .next (s.drawn (plot s.params c (s.params.rectPoints (sext16 x) (sext16 y) (zext16 w) (zext16 h))))

end Sys2Proof.Machine
end

