-- ==== Sys2Proof/Machine/Swap.lean ====
section
/-!
DEFINITION. The display swap controller: ENABLEDB, PRESENT, WAITP (45_swap_controller.md). A command that is held leaves the
state as it is, with `EXEC = 1` (R184): the next move of the core tries it again.
-/

namespace Sys2Proof.Machine

/-- ENABLEDB (R181). -/
def execEnabledb (s : State) : Host.Outcome State Fault Refusal :=
  .next
    (match s.mode with
     | .doubleBuffer => s.finish
     | .singleBuffer =>
       if s.params.hasBuf1 then { s with mode := .doubleBuffer }.finish else s.raise .alloc)

/-- PRESENT in SINGLE_BUFFER (R182), one step of the core: step 1 hands `FB0` over, step 2 ends the command. -/
def presentSingle (clr : Bool) (s : State) : State :=
  if s.sinkBusy then s
  else if s.phase then (if clr then s.setBuf .fb0 Memory.cleared else s).finish
  else { s.handOff .fb0 with phase := true }

/-- PRESENT in DOUBLE_BUFFER (R182): swap, hand the drawn buffer over, clear the new active buffer if asked. -/
def presentDouble (clr : Bool) (s : State) : State :=
  if s.sinkBusy then s
  else
    let t := { s.handOff s.active with active := s.active.other }
    (if clr then t.setBuf t.active Memory.cleared else t).finish

/-- PRESENT (R182), one step of the core. -/
def execPresent (clr : Bool) (s : State) : Host.Outcome State Fault Refusal :=
  .next
    (match s.mode with
     | .singleBuffer => presentSingle clr s
     | .doubleBuffer => presentDouble clr s)

/-- WAITP (R185). -/
def execWaitp (s : State) : Host.Outcome State Fault Refusal :=
  .next (if s.sinkBusy then s else s.finish)

end Sys2Proof.Machine
end

