-- ==== Sys2Proof/Machine/Dispatch.lean ====
section
/-!
DEFINITION. One step of the command being executed: one arm per command.
-/

namespace Sys2Proof.Machine

def exec (i : Instr) (s : State) : Host.Outcome State Fault Refusal :=
  match i with
  | .setpixel x y c => Sys2Proof.Machine.execSetpixel x y c s
  | .getpixel x y => Sys2Proof.Machine.execGetpixel x y s
  | .clear => Sys2Proof.Machine.execClear s
  | .hline x y w c => Sys2Proof.Machine.execHline x y w c s
  | .vline x y h c => Sys2Proof.Machine.execVline x y h c s
  | .line x0 y0 x1 y1 c => Sys2Proof.Machine.execLine x0 y0 x1 y1 c s
  | .fillrect x y w h c => Sys2Proof.Machine.execFillrect x y w h c s
  | .drawbitmap x y src w h c => Sys2Proof.Machine.execDrawbitmap x y src w h c s
  | .drawcompressed x y src c => Sys2Proof.Machine.execDrawcompressed x y src c s
  | .enabledb => Sys2Proof.Machine.execEnabledb s
  | .present clr => Sys2Proof.Machine.execPresent clr s
  | .waitp => Sys2Proof.Machine.execWaitp s
  | .setrate rate => Sys2Proof.Machine.execSetrate rate s
  | .tick => Sys2Proof.Machine.execTick s
  | .cpuload => Sys2Proof.Machine.execCpuload s
  | .everyn n => Sys2Proof.Machine.execEveryn n s

end Sys2Proof.Machine
end

