-- ==== Sys2Proof/WellFormed.lean ====
section
/-!
DEFINITION. Which commands have a legal word on a given build of the hardware: the operand ranges and the presence
of the pacer of 30_encoding.md R87 (b), (e), (f). Everything else a legal word needs is in the types of Syntax.lean.
-/

namespace Sys2Proof

/-- The operand ranges of R87 (e) and (f): SETRATE takes 1 to 1000, EVERYN at least 1. -/
def Instr.operandsLegal : Instr → Bool
  | .setpixel _ _ _ => true
  | .getpixel _ _ => true
  | .clear => true
  | .hline _ _ _ _ => true
  | .vline _ _ _ _ => true
  | .line _ _ _ _ _ => true
  | .fillrect _ _ _ _ _ => true
  | .drawbitmap _ _ _ _ _ _ => true
  | .drawcompressed _ _ _ _ => true
  | .enabledb => true
  | .present _ => true
  | .waitp => true
  | .setrate rate => decide (1 ≤ rate.toNat ∧ rate.toNat ≤ 1000)
  | .tick => true
  | .cpuload => true
  | .everyn n => decide (1 ≤ n.toNat)

/-- The command is legal on hardware built with (`true`) or without (`false`) the pacer. -/
def Instr.wellFormed (hasPacer : Bool) (i : Instr) : Bool :=
  (hasPacer || !i.isPacer) && i.operandsLegal

end Sys2Proof
end

