-- ==== Sys2Proof/Decode.lean ====
section
/-!
DEFINITION. The decoder of a command word (30_encoding.md R91), total on all 128-bit words and rejecting by name, and the
encoder, both written from the field layout R81, the formats R82 and the opcode map R85.
-/

namespace Sys2Proof

/-! ### The fields of a command word (R81) -/

/-- `OPC`, bits 7:0. -/
def CommandWord.opc (w : CommandWord) : BitVec 8 := w.extractLsb' 0 8
/-- `COL`, bits 9:8. -/
def CommandWord.col (w : CommandWord) : BitVec 2 := w.extractLsb' 8 2
/-- `CLR`, bit 10. -/
def CommandWord.clr (w : CommandWord) : BitVec 1 := w.extractLsb' 10 1
/-- `RSV0`, bits 15:11. -/
def CommandWord.rsv0 (w : CommandWord) : BitVec 5 := w.extractLsb' 11 5
/-- `A`, bits 31:16. -/
def CommandWord.a (w : CommandWord) : Half := w.extractLsb' 16 16
/-- `B`, bits 47:32. -/
def CommandWord.b (w : CommandWord) : Half := w.extractLsb' 32 16
/-- `C`, bits 63:48. -/
def CommandWord.c (w : CommandWord) : Half := w.extractLsb' 48 16
/-- `D`, bits 79:64. -/
def CommandWord.d (w : CommandWord) : Half := w.extractLsb' 64 16
/-- `SRC`, bits 111:80. -/
def CommandWord.src (w : CommandWord) : Word := w.extractLsb' 80 32
/-- `RSV1`, bits 127:112. -/
def CommandWord.rsv1 (w : CommandWord) : BitVec 16 := w.extractLsb' 112 16

/-- The word with the given fields, each at the weight of its lowest bit (R81), and zeros in `RSV0` and `RSV1`. -/
def CommandWord.pack (opc : BitVec 8) (col : BitVec 2) (clr : BitVec 1) (a b c d : Half) (src : Word) : CommandWord :=
  BitVec.ofNat 128
    (opc.toNat + 2 ^ 8 * col.toNat + 2 ^ 10 * clr.toNat + 2 ^ 16 * a.toNat + 2 ^ 32 * b.toNat + 2 ^ 48 * c.toNat +
      2 ^ 64 * d.toNat + 2 ^ 80 * src.toNat)

/-! ### Opcodes, colours and formats -/

/-- The rows of the opcode map (R85), without their operands. -/
inductive Opcode where
  | setpixel | getpixel | clear | hline | vline | line | fillrect | drawbitmap | drawcompressed
  | enabledb | present | waitp | setrate | tick | cpuload | everyn
deriving DecidableEq, Repr

/-- The `OPC` value of a row (R85). -/
def Opcode.bits : Opcode → BitVec 8
  | .setpixel => 0x10
  | .getpixel => 0x11
  | .clear => 0x12
  | .hline => 0x20
  | .vline => 0x21
  | .line => 0x22
  | .fillrect => 0x23
  | .drawbitmap => 0x30
  | .drawcompressed => 0x31
  | .enabledb => 0x40
  | .present => 0x41
  | .waitp => 0x42
  | .setrate => 0x50
  | .tick => 0x51
  | .cpuload => 0x52
  | .everyn => 0x53

/-- The row with a given `OPC` value; every other value is reserved (R87). -/
def Opcode.ofBits? (b : BitVec 8) : Option Opcode :=
  match b.toNat with
  | 0x10 => some .setpixel
  | 0x11 => some .getpixel
  | 0x12 => some .clear
  | 0x20 => some .hline
  | 0x21 => some .vline
  | 0x22 => some .line
  | 0x23 => some .fillrect
  | 0x30 => some .drawbitmap
  | 0x31 => some .drawcompressed
  | 0x40 => some .enabledb
  | 0x41 => some .present
  | 0x42 => some .waitp
  | 0x50 => some .setrate
  | 0x51 => some .tick
  | 0x52 => some .cpuload
  | 0x53 => some .everyn
  | _ => none

/-- The four pacer rows (R87 (b)). -/
def Opcode.isPacer : Opcode → Bool
  | .setrate | .tick | .cpuload | .everyn => true
  | .setpixel | .getpixel | .clear | .hline | .vline | .line | .fillrect | .drawbitmap | .drawcompressed
  | .enabledb | .present | .waitp => false

/-- The number of a colour (R84). -/
def Colour.bits : Colour → BitVec 2
  | .clear => 0
  | .set => 1
  | .toggle => 2

/-- The colour of a number; 3 is reserved (R84). -/
def Colour.ofBits? (b : BitVec 2) : Option Colour :=
  match b.toNat with
  | 0 => some .clear
  | 1 => some .set
  | 2 => some .toggle
  | _ => none

/-- A format: which fields a command uses (R82). -/
structure Format where
  usesCol : Bool
  usesClr : Bool
  usesA   : Bool
  usesB   : Bool
  usesC   : Bool
  usesD   : Bool
  usesSrc : Bool
deriving DecidableEq, Repr

/-- The format of a row (R82). -/
def Opcode.format : Opcode → Format
  | .clear | .enabledb | .waitp | .tick | .cpuload =>                       -- N
    ⟨false, false, false, false, false, false, false⟩
  | .present => ⟨false, true, false, false, false, false, false⟩            -- F
  | .getpixel => ⟨false, false, true, true, false, false, false⟩            -- P
  | .setpixel => ⟨true, false, true, true, false, false, false⟩             -- PC
  | .hline => ⟨true, false, true, true, true, false, false⟩                 -- RH
  | .vline => ⟨true, false, true, true, false, true, false⟩                 -- RV
  | .line | .fillrect => ⟨true, false, true, true, true, true, false⟩       -- Q
  | .drawbitmap => ⟨true, false, true, true, true, true, true⟩              -- BM
  | .drawcompressed => ⟨true, false, true, true, false, false, true⟩        -- ST
  | .setrate | .everyn => ⟨false, false, false, false, true, false, false⟩  -- U

/-- The must-be-zero rule (R86): the reserved fields and every field the format does not use are zero. -/
def Format.unusedZero (f : Format) (w : CommandWord) : Bool :=
  decide (w.rsv0 = 0) && decide (w.rsv1 = 0) && (f.usesCol || decide (w.col = 0)) && (f.usesClr || decide (w.clr = 0)) &&
    (f.usesA || decide (w.a = 0)) && (f.usesB || decide (w.b = 0)) && (f.usesC || decide (w.c = 0)) &&
    (f.usesD || decide (w.d = 0)) && (f.usesSrc || decide (w.src = 0))

/-! ### The decoder -/

/-- Why a word is illegal (R87), in the order of R91. -/
inductive Illegal where
  /-- R87 (a): `OPC` is not in the table. -/
  | unknownOpcode
  /-- R87 (b): a pacer opcode on hardware without the pacer. -/
  | noPacer
  /-- R87 (c): a reserved or unused field is not zero. -/
  | unusedField
  /-- R87 (d): `COL = 3` where the format uses `COL`. -/
  | reservedColour
  /-- R87 (e): SETRATE outside 1 to 1000. -/
  | rateRange
  /-- R87 (f): EVERYN with `n = 0`. -/
  | everyZero
deriving DecidableEq, Repr

/-- The command with a colour, or the rejection of `COL = 3` (R91 step 4). -/
def withColour (w : CommandWord) (f : Colour → Instr) : Except Illegal Instr :=
  match Colour.ofBits? w.col with
  | some c => .ok (f c)
  | none => .error .reservedColour

/-- Steps 4 to 7 of R91: the row is known and the must-be-zero rule holds. -/
def decodeRow (op : Opcode) (w : CommandWord) : Except Illegal Instr :=
  match op with
  | .setpixel => withColour w (.setpixel w.a w.b)
  | .getpixel => .ok (.getpixel w.a w.b)
  | .clear => .ok .clear
  | .hline => withColour w (.hline w.a w.b w.c)
  | .vline => withColour w (.vline w.a w.b w.d)
  | .line => withColour w (.line w.a w.b w.c w.d)
  | .fillrect => withColour w (.fillrect w.a w.b w.c w.d)
  | .drawbitmap => withColour w (.drawbitmap w.a w.b w.src w.c w.d)
  | .drawcompressed => withColour w (.drawcompressed w.a w.b w.src)
  | .enabledb => .ok .enabledb
  | .present => .ok (.present (decide (w.clr = 1)))
  | .waitp => .ok .waitp
  | .setrate => if 1 ≤ w.c.toNat ∧ w.c.toNat ≤ 1000 then .ok (.setrate w.c) else .error .rateRange
  | .tick => .ok .tick
  | .cpuload => .ok .cpuload
  | .everyn => if w.c.toNat = 0 then .error .everyZero else .ok (.everyn w.c)

/-- The decode procedure of R91 on hardware with or without the pacer. -/
def decode (hasPacer : Bool) (w : CommandWord) : Except Illegal Instr :=
  match Opcode.ofBits? w.opc with
  | none => .error .unknownOpcode
  | some op =>
    if op.isPacer && !hasPacer then .error .noPacer
    else if op.format.unusedZero w then decodeRow op w
    else .error .unusedField

/-- Does the word's `OPC` belong to the pacer (R87 (b))? -/
def CommandWord.needsPacer (w : CommandWord) : Bool :=
  match Opcode.ofBits? w.opc with
  | some op => op.isPacer
  | none => false

/-! ### The encoder -/

/-- The row of a command. -/
def Instr.opcode : Instr → Opcode
  | .setpixel _ _ _ => .setpixel
  | .getpixel _ _ => .getpixel
  | .clear => .clear
  | .hline _ _ _ _ => .hline
  | .vline _ _ _ _ => .vline
  | .line _ _ _ _ _ => .line
  | .fillrect _ _ _ _ _ => .fillrect
  | .drawbitmap _ _ _ _ _ _ => .drawbitmap
  | .drawcompressed _ _ _ _ => .drawcompressed
  | .enabledb => .enabledb
  | .present _ => .present
  | .waitp => .waitp
  | .setrate _ => .setrate
  | .tick => .tick
  | .cpuload => .cpuload
  | .everyn _ => .everyn

/-- The one word of a command (R86). -/
def encode (i : Instr) : CommandWord :=
  match i with
  | .setpixel x y col => .pack i.opcode.bits col.bits 0 x y 0 0 0
  | .getpixel x y => .pack i.opcode.bits 0 0 x y 0 0 0
  | .clear => .pack i.opcode.bits 0 0 0 0 0 0 0
  | .hline x y w col => .pack i.opcode.bits col.bits 0 x y w 0 0
  | .vline x y h col => .pack i.opcode.bits col.bits 0 x y 0 h 0
  | .line x0 y0 x1 y1 col => .pack i.opcode.bits col.bits 0 x0 y0 x1 y1 0
  | .fillrect x y w h col => .pack i.opcode.bits col.bits 0 x y w h 0
  | .drawbitmap x y src w h col => .pack i.opcode.bits col.bits 0 x y w h src
  | .drawcompressed x y src col => .pack i.opcode.bits col.bits 0 x y 0 0 src
  | .enabledb => .pack i.opcode.bits 0 0 0 0 0 0 0
  | .present clr => .pack i.opcode.bits 0 (BitVec.ofBool clr) 0 0 0 0 0
  | .waitp => .pack i.opcode.bits 0 0 0 0 0 0 0
  | .setrate rate => .pack i.opcode.bits 0 0 0 0 rate 0 0
  | .tick => .pack i.opcode.bits 0 0 0 0 0 0 0
  | .cpuload => .pack i.opcode.bits 0 0 0 0 0 0 0
  | .everyn n => .pack i.opcode.bits 0 0 0 0 n 0 0

/-! ### The table's numbering -/

/-- The command in an instruction whose bits are `w`, numbered as spec/opcode_table.json numbers them (a command word is
one 128-bit value, bit 0 least significant, R80, R92); bits at `nbits` and above are 0. Read on hardware with the pacer, so
that every row of the table has its command (log 1). -/
def decodeTableWord (nbits w : Nat) : Option Instr :=
  match decode true (BitVec.ofNat 128 (w % 2 ^ nbits)) with
  | .ok i => some i
  | .error _ => none

end Sys2Proof
end

