-- ==== Sys2Proof/Machine/Sequence.lean ====
section
/-!
DEFINITION. What happens next: whose move it is, the issue of a word, the decoding of the operand latch. FBCORE has no program
counter and fetches nothing (10_state.md R22); the host issues words, one at a time, while `EXEC = 0` (30_encoding.md R92).
-/

namespace Sys2Proof.Machine

/-- The outcome of sequencing: the step is done, or the core runs a command. -/
inductive Sequenced where
  | done (s : State)
  | run (i : Instr) (s : State)
deriving DecidableEq, Repr

/-- Decode the operand latch; an illegal word raises `ERR_ILLEGAL` (R87). -/
def decodeCur (s : State) : Sequenced :=
  match decode s.params.hasPacer s.cur with
  | .ok i => .run i s
  | .error _ => .done (s.raise .illegal)

/-- A move of the host at a free port: it issues the word on offer; with none it does nothing. A legal word is issued in a step
of its own, after which `EXEC = 1` and the command has done nothing yet (10_state.md R30; log 7). Issuing an illegal word has
the effect of R87 and 60_exceptions.md R234 at once: the flag, and the word in `CUR` (log 17). -/
def hostMove (s : State) : State :=
  match s.host with
  | [] => s
  | w :: ws =>
    match decode s.params.hasPacer w with
    | .ok _ => { s with host := ws }.issue w
    | .error _ => { s with host := ws, cur := w }.raise .illegal

/-- A move of the host and the core. While `EXEC = 1` the core goes on with the command in `CUR`, and a word on offer is not
accepted (R92); while `EXEC = 0` the core is idle and the port is the host's. -/
def coreMove (s : State) : Sequenced :=
  if s.execBit then decodeCur s else .done (hostMove s)

/-- Whose move it is; when nothing is listed, the host's and the core's (log 6). -/
def nextMove (s : State) : Sequenced :=
  match s.turns with
  | [] => coreMove s
  | .core :: ts => coreMove { s with turns := ts }
  | .sinkDone :: ts => .done { s with turns := ts }.sinkDone
  | .clock ms :: ts => .done { s with turns := ts, clkMs := ms }
  | .reset :: ts => .done { s with turns := ts }.resetEvent

/-- The word stands issued in `CUR`, its command not begun, and the core moves next; for a pacer word, on hardware that has the
pacer (log 1, log 6). -/
def State.placed (s : State) (w : CommandWord) : State :=
  { s.issue w with
    turns  := .core :: s.turns
    params := { s.params with hasPacer := s.params.hasPacer || w.needsPacer } }

end Sys2Proof.Machine
end

