-- ==== Sys2Proof/Machine/Step.lean ====
section
/-!
DEFINITION. One step of the machine: one move of the agent whose turn it is (00_scope.md R10).
-/

namespace Sys2Proof.Machine

/-- One step. -/
def step (s : State) : Host.Outcome State Fault Refusal :=
  match nextMove s with
  | .done t => .next t
  | .run i t => exec i t

/-- `s` with the command word `w` (bits at `nbits` and above are 0) in the operand latch, where the core takes its command
from, as the host's issue step leaves it, so that the next step runs it (log 6). -/
def State.withFetchWord (s : State) (nbits w : Nat) : State :=
  s.placed (BitVec.ofNat 128 (w % 2 ^ nbits))

end Sys2Proof.Machine
end

