-- ==== Sys2Proof/Machine/Flags.lean ====
section
/-!
DEFINITION. The status register (10_state.md R23) and the register file as the host reads it through the register read port
(R25). A read has no side effect, so it is a function of the state and no step. No arithmetic result sets a flag (R23).
-/

namespace Sys2Proof.Machine

/-- The bits of `STATUS` from bit 0 up to bit 11 (R23); the bits above are reserved and read as 0. -/
def State.statusBits (s : State) : List Bool :=
  [ s.execBit,                              -- 0
    s.sinkBusy,                             -- 1
    decide (s.mode = .doubleBuffer),        -- 2
    decide (s.active = .fb1),               -- 3
    decide (s.sinkBuf = .fb1),              -- 4
    s.params.hasPacer && s.justRendered,    -- 5
    false,                                  -- 6, reserved
    false,                                  -- 7, reserved
    s.errIllegal,                           -- 8
    s.errAlloc,                             -- 9
    s.errStream,                            -- 10
    s.errAsset ]                            -- 11

/-- Register 0, `STATUS` (R23). -/
def State.status (s : State) : Word := (BitVec.ofBoolListLE s.statusBits).setWidth 32

/-- A pacer register, 0 without the pacer (R25). -/
def State.pacerReg (s : State) (v : Word) : Word := if s.params.hasPacer then v else 0

/-- The register read port (R25). -/
def State.readReg (s : State) (n : BitVec 8) : Word :=
  match n.toNat with
  | 0 => s.status
  | 1 => s.result
  | 2 => s.pacerReg s.frameCount
  | 3 => s.pacerReg s.eachMs
  | 4 => s.pacerReg s.nextStart
  | 5 => s.pacerReg s.lastStart
  | 6 => s.pacerReg s.lastDur
  | _ => 0

end Sys2Proof.Machine
end

