-- ==== Sys2Proof/Safety.lean ====
section
/-!
DEFINITION. The terms the statements are made in: the invariant of a run (10_state.md R36 and the canonical form of the
memories), what it means that a command drew and did nothing else, and the opcode map as the table of 30_encoding.md R85 gives
it, in masks.
-/

namespace Sys2Proof.Machine

/-! ### The invariant of a run -/

/-- The memories are in canonical form: no byte outside a framebuffer is listed (20_memory.md R59), nor outside asset
storage. -/
def State.MemoriesWf (s : State) : Prop :=
  s.fb0.wf s.params.fbSize ∧ s.fb1.wf s.params.fbSize ∧ s.params.asset.wf s.params.assetSize

/-- The invariants of the swap controller: R36 (a) to (d); and why a presentation in flight in SINGLE_BUFFER means that the
command in `CUR` is a PRESENT past its hand-off (45_swap_controller.md R182, R186). -/
def State.SwapInv (s : State) : Prop :=
  (s.mode = .singleBuffer → s.active = .fb0) ∧
  (s.mode = .doubleBuffer → s.params.hasBuf1 = true) ∧
  (s.mode = .singleBuffer → s.execBit = false → s.sinkBusy = false) ∧
  (s.mode = .doubleBuffer → s.sinkBusy = true → s.sinkBuf = s.active.other) ∧
  (s.mode = .singleBuffer → s.sinkBusy = true →
    s.sinkBuf = .fb0 ∧ s.phase = true ∧ ∃ clr, decode s.params.hasPacer s.cur = .ok (.present clr))

/-- `EACH_MS` is at least 1 (46_frame_pacer.md R203) and at most 1000 (R201). -/
def State.PacerInv (s : State) : Prop := 1 ≤ s.eachMs.toNat ∧ s.eachMs.toNat ≤ 1000

/-- While a command executes, `CUR` holds its legal word (10_state.md R21, R30; 30_encoding.md R87). -/
def State.LatchInv (s : State) : Prop := s.execBit = true → ∃ i, decode s.params.hasPacer s.cur = .ok i

/-- What every run from reset keeps. -/
def State.Inv (s : State) : Prop := s.params.wf ∧ s.MemoriesWf ∧ s.SwapInv ∧ s.PacerInv ∧ s.LatchInv

/-- The next move is not the reset input's. -/
def State.NoReset (s : State) : Prop := s.turns.head? ≠ some .reset

/-- The next move is the host's and the core's. -/
def State.CoreTurn (s : State) : Prop := s.turns = [] ∨ s.turns.head? = some .core

/-- The next step is a step of the command `i`: the core moves, and `CUR` holds it. -/
def State.Runs (s : State) (i : Instr) : Prop :=
  s.CoreTurn ∧ s.execBit = true ∧ decode s.params.hasPacer s.cur = .ok i

/-- Is the event a `PaintScreen`? -/
def Output.isPaint : Output → Bool
  | .paintScreen _ _ => true
  | .idleReq => false

/-- The last frame handed to the sink. -/
def State.lastPaint (s : State) : Option Output := (s.out.filter Output.isPaint).getLast?

/-- While a presentation is in flight, the buffer in flight holds the bytes that were handed over with it
(45_swap_controller.md R187). -/
def State.FrameInv (s : State) : Prop :=
  s.sinkBusy = true →
    s.lastPaint = some (.paintScreen s.sinkBuf ((s.buf s.sinkBuf).bytes s.params.fbSize))

/-! ### What a drawing command does -/

/-- `t` is `s` after a command that wrote nothing but the active buffer, and ended (47_arithmetic_control_system.md R216). -/
def State.OnlyDrew (s t : State) : Prop :=
  t = { s with fb0 := t.fb0, fb1 := t.fb1, execBit := false } ∧ t.buf s.active.other = s.buf s.active.other

/-- From `s` to `t` the active buffer's pixels in `P` took the colour `c`, its other pixels kept their values, and so did every
byte that holds none of the pixels in `P`. -/
def State.Recoloured (s t : State) (c : Colour) (P : Int → Int → Prop) : Prop :=
  (∀ x y, s.params.onScreen x y → P x y → t.pixel s.active x y = c.applyBit (s.pixel s.active x y)) ∧
  (∀ x y, s.params.onScreen x y → ¬ P x y → t.pixel s.active x y = s.pixel s.active x y) ∧
  (∀ a, (∀ x y, s.params.onScreen x y → P x y → s.params.byteIndex x y ≠ a) →
    (t.buf s.active).read a = (s.buf s.active).read a)

/-- Pixel `(col, row)` of the raw bitmap of width `w` whose bytes, in order, are `bs` (43_bitmap_raw.md R145). -/
def bitmapPixel (w : Nat) (bs : List Byte) (col row : Int) : Prop :=
  (0 ≤ col ∧ col < w) ∧ 0 ≤ row ∧ (bs.getD ((row / 8).toNat * w + col.toNat) 0).getLsbD (row % 8).toNat = true

/-- Point `k` of a line in closed form (42_line.md R136): the major coordinate grows by 1, the minor one has moved
`(k * dy + dx - 1 - dx div 2) div dx` times. -/
def linePoint (l : LineSetup) (k : Nat) : Int × Int :=
  let u := l.u0 + k
  let v := l.v0 + l.ystep * ((k * l.dy + (l.dx - 1 - l.dx / 2)) / l.dx)
  if l.steep then (v, u) else (u, v)

/-! ### The compressed stream as its grammar gives it (44_bitmap_rle.md R160, R170) -/

/-- The `n` bits of a field, least significant first (R161, R170). -/
def fieldBits (n v : Nat) : List Bool := (List.range n).map fun i => v.testBit i

/-- One run: `z` zero bits, a one bit, and the value `len - 1` in `1 + 2 * z` bits (R160). -/
structure StreamRun where
  z   : Nat
  len : Nat
deriving DecidableEq, Repr

/-- A run that a well-formed stream can hold: at most 8 zero bits, and a value that fits its field (R163). -/
def StreamRun.ok (r : StreamRun) : Prop := r.z ≤ 8 ∧ 1 ≤ r.len ∧ r.len ≤ 2 ^ (1 + 2 * r.z)

/-- The bits of a run. -/
def StreamRun.bits (r : StreamRun) : List Bool :=
  List.replicate r.z false ++ [true] ++ fieldBits (1 + 2 * r.z) (r.len - 1)

/-- The bits of a stream's header (R162). -/
def headerBits (width height : Nat) (c1 : Bool) : List Bool :=
  fieldBits 8 (width - 1) ++ fieldBits 8 (height - 1) ++ [c1]

/-- The bits of runs, in order. -/
def runsBits (rs : List StreamRun) : List Bool := rs.flatMap StreamRun.bits

/-- The pixels of runs whose first has colour `c`; the colour alternates (R160). -/
def runsPixels : Bool → List StreamRun → List Bool
  | _, [] => []
  | c, r :: rs => List.replicate r.len c ++ runsPixels (!c) rs

/-- How many pixels the runs hold. -/
def runsLength (rs : List StreamRun) : Nat := (rs.map StreamRun.len).sum

/-- Asset storage holds the bits `bs` from byte `src` upwards, bit 0 of each byte first (R161). -/
def assetHolds (p : Params) (src : Nat) (bs : List Bool) : Prop :=
  ∀ k < bs.length, ∃ b, assetRead p (src + k / 8) = some b ∧ b.getLsbD (k % 8) = bs.getD k false

/-! ### The opcode map in masks (30_encoding.md R85) -/

/-- A row of R85: `OPC`, `match`, `mask`. -/
structure TableRow where
  opc    : Nat
  fixed  : CommandWord
  mask   : CommandWord
deriving DecidableEq, Repr

/-- The table of R85. -/
def opcodeTable : List TableRow := [
  ⟨0x10, 0x00000000000000000000000000000010, 0xFFFFFFFFFFFFFFFFFFFF00000000FCFF⟩,
  ⟨0x11, 0x00000000000000000000000000000011, 0xFFFFFFFFFFFFFFFFFFFF00000000FFFF⟩,
  ⟨0x12, 0x00000000000000000000000000000012, 0xFFFFFFFFFFFFFFFFFFFFFFFFFFFFFFFF⟩,
  ⟨0x20, 0x00000000000000000000000000000020, 0xFFFFFFFFFFFFFFFF000000000000FCFF⟩,
  ⟨0x21, 0x00000000000000000000000000000021, 0xFFFFFFFFFFFF0000FFFF00000000FCFF⟩,
  ⟨0x22, 0x00000000000000000000000000000022, 0xFFFFFFFFFFFF0000000000000000FCFF⟩,
  ⟨0x23, 0x00000000000000000000000000000023, 0xFFFFFFFFFFFF0000000000000000FCFF⟩,
  ⟨0x30, 0x00000000000000000000000000000030, 0xFFFF000000000000000000000000FCFF⟩,
  ⟨0x31, 0x00000000000000000000000000000031, 0xFFFF00000000FFFFFFFF00000000FCFF⟩,
  ⟨0x40, 0x00000000000000000000000000000040, 0xFFFFFFFFFFFFFFFFFFFFFFFFFFFFFFFF⟩,
  ⟨0x41, 0x00000000000000000000000000000041, 0xFFFFFFFFFFFFFFFFFFFFFFFFFFFFFBFF⟩,
  ⟨0x42, 0x00000000000000000000000000000042, 0xFFFFFFFFFFFFFFFFFFFFFFFFFFFFFFFF⟩,
  ⟨0x50, 0x00000000000000000000000000000050, 0xFFFFFFFFFFFFFFFF0000FFFFFFFFFFFF⟩,
  ⟨0x51, 0x00000000000000000000000000000051, 0xFFFFFFFFFFFFFFFFFFFFFFFFFFFFFFFF⟩,
  ⟨0x52, 0x00000000000000000000000000000052, 0xFFFFFFFFFFFFFFFFFFFFFFFFFFFFFFFF⟩,
  ⟨0x53, 0x00000000000000000000000000000053, 0xFFFFFFFFFFFFFFFF0000FFFFFFFFFFFF⟩]

/-- The rows whose format uses `COL` (R82). -/
def opcsWithColour : List Nat := [0x10, 0x20, 0x21, 0x22, 0x23, 0x30, 0x31]

/-- The rows of the pacer (R87 (b)). -/
def pacerOpcs : List Nat := [0x50, 0x51, 0x52, 0x53]

/-- The word has the shape of a row of R85. -/
def fitsTable (w : CommandWord) : Prop := ∃ r ∈ opcodeTable, r.opc = w.opc.toNat ∧ w &&& r.mask = r.fixed

/-- The word is illegal, by the conditions (a) to (f) of R87; (a) and (c) are read off the table of R85. -/
def IllegalWord (hasPacer : Bool) (w : CommandWord) : Prop :=
  w.opc.toNat ∉ opcodeTable.map TableRow.opc ∨
  (w.opc.toNat ∈ pacerOpcs ∧ hasPacer = false) ∨
  ¬ fitsTable w ∨
  (w.opc.toNat ∈ opcsWithColour ∧ w.col = 3) ∨
  (w.opc.toNat = 0x50 ∧ (w.c.toNat = 0 ∨ w.c.toNat > 1000)) ∨
  (w.opc.toNat = 0x53 ∧ w.c.toNat = 0)

end Sys2Proof.Machine
end

