-- ==== Sys2Proof/Certificates/Slice0/Obligations.lean ====
section
/-!
DEFINITION. The statements for the provers. Each says in its docstring which rule of spec/ it formalises. A result statement
begins with the command's word (its encoding), then says that the command's step answers a next state and which.
-/

open Sys2Proof Sys2Proof.Machine

/-! ### Encoding -/

/-- R86: decoding the word of a legal command gives the command back, with every operand at every value. -/
def Obligations.DecodeEncode : Prop :=
  ∀ (hasPacer : Bool) (i : Instr), i.wellFormed hasPacer = true → decode hasPacer (encode i) = .ok i

/-- R86: every legal word is the one word of its command. -/
def Obligations.EncodeDecode : Prop :=
  ∀ (hasPacer : Bool) (w : CommandWord) (i : Instr), decode hasPacer w = .ok i →
    encode i = w ∧ i.wellFormed hasPacer = true

/-- R87, R234: which words are illegal, by the masks of R85, and that issuing one sets `ERR_ILLEGAL` and changes nothing else but
`CUR`, whatever the state before. -/
def Obligations.IllegalWords : Prop :=
  (∀ (hasPacer : Bool) (w : CommandWord), (∃ e, decode hasPacer w = .error e) ↔ IllegalWord hasPacer w) ∧
  (∀ (s : State) (w : CommandWord) (ws : List CommandWord), s.CoreTurn → s.execBit = false → s.host = w :: ws →
    IllegalWord s.params.hasPacer w →
    step s = .next { s with turns := s.turns.tail, host := ws, cur := w, errIllegal := true })

/-- R85, R92: words written out by the spec, one or more of each family, decode to the command they stand for. -/
def Obligations.SpecWords : Prop :=
  decode true 0x00000000000000000000000A00030110 = .ok (.setpixel 3 10 .set) ∧
  decode true 0x00000000000000000000004000030011 = .ok (.getpixel 3 64) ∧
  decode true 0x000000000000000000050000FFFD0120 = .ok (.hline (-3) 0 5 .set) ∧
  decode true 0x00000000000000040000000600050121 = .ok (.vline 5 6 4 .set) ∧
  decode true 0x000000000000FFFF00020001FFFE0122 = .ok (.line (-2) 1 2 (-1) .set) ∧
  decode true 0x000000000000FFFFFFFF800080000223 = .ok (.fillrect 0x8000 0x8000 0xFFFF 0xFFFF .toggle) ∧
  decode true 0x00000000006300080000000000000130 = .ok (.drawbitmap 0 0 99 0 8 .set) ∧
  decode true 0x00000000001000000000FFFE00050131 = .ok (.drawcompressed 5 (-2) 16 .set) ∧
  decode true 0x00000000000000000000000000000441 = .ok (.present true) ∧
  decode true 0x000000000000000003E8000000000050 = .ok (.setrate 1000) ∧
  decode true 0x00000000000000000003000000000053 = .ok (.everyn 3)

/-! ### The machine as a whole -/

/-- R21, R22, R30, R92: while `EXEC = 1` the core's step is the step of the command whose word is in `CUR`; while `EXEC = 0` a
legal word on offer is issued, in a step of its own that runs nothing. Whose turn it is, is the model's own form (log 6). -/
def Obligations.StepRunsDecoded : Prop :=
  (∀ (s : State) (i : Instr), s.Runs i → step s = exec i { s with turns := s.turns.tail }) ∧
  (∀ (s : State) (w : CommandWord) (ws : List CommandWord) (i : Instr), s.CoreTurn → s.execBit = false →
    s.host = w :: ws → decode s.params.hasPacer w = .ok i →
    step s = .next { s with turns := s.turns.tail, host := ws, cur := w, execBit := true, phase := false })

/-- R183, R206, R22: the steps that run no command, in every state: the sink's completion changes `SINK_BUSY` alone, a move of the
clock input changes `CLK_MS` alone, and with `EXEC = 0` and no word on offer the block is idle. Whose turn it is, is the model's
own form (log 6). -/
def Obligations.StepsWithoutCommand : Prop :=
  (∀ (s : State) (ts : List Turn), s.turns = .sinkDone :: ts →
    step s = .next { s with turns := ts, sinkBusy := false }) ∧
  (∀ (s : State) (ms : Word) (ts : List Turn), s.turns = .clock ms :: ts →
    step s = .next { s with turns := ts, clkMs := ms }) ∧
  (∀ s : State, s.CoreTurn → s.execBit = false → s.host = [] → step s = .next { s with turns := s.turns.tail })

/-- R220, R222: no command and no move of any agent stops the machine, from any state. -/
def Obligations.NothingStops : Prop :=
  (∀ (i : Instr) (s : State), ∃ t, exec i s = .next t) ∧ ∀ s : State, ∃ t, step s = .next t

/-- R36, R59, R203: every step keeps the invariant: the memories in canonical form and inside their bounds, the swap
controller's relations, the frame period in range, a legal word in `CUR` while a command executes. -/
def Obligations.InvStep : Prop := ∀ s t : State, s.Inv → step s = .next t → t.Inv

/-- The invariant holds after reset, for every legal build. -/
def Obligations.InvReset : Prop :=
  State.reset.Inv ∧
  ∀ (p : Params) (n : Nat), p.wf → p.asset.wf p.assetSize → (State.atReset p n).Inv

/-- R250: the reset event, whatever went before, puts every element of which R35 states a value at that value, as the host reads
it too (R25); the clock is not reset, and a completion that arrives later changes nothing. -/
def Obligations.ResetEvent : Prop :=
  ∀ (s : State) (ts : List Turn), s.turns = .reset :: ts → ∃ t, step s = .next t ∧
    t.active = .fb0 ∧ t.mode = .singleBuffer ∧ t.sinkBusy = false ∧ t.sinkBuf = .fb0 ∧ t.execBit = false ∧
    t.phase = false ∧ t.errIllegal = false ∧ t.errAlloc = false ∧ t.errStream = false ∧ t.errAsset = false ∧
    t.result = 0 ∧ t.frameCount.toInt = -1 ∧ t.eachMs.toNat = 1000 / s.params.defaultRate ∧ t.nextStart = 0 ∧
    t.lastStart = 0 ∧ t.lastDur = 0 ∧ t.justRendered = false ∧ t.clkMs = s.clkMs ∧ t.params = s.params ∧
    t.sinkDone = t ∧ t.readReg 0 = 0 ∧ t.readReg 1 = 0 ∧
    (t.params.hasPacer = true → t.readReg 2 = 0xFFFFFFFF ∧ (t.readReg 3).toNat = 1000 / s.params.defaultRate) ∧
    (t.params.hasPacer = false → t.readReg 2 = 0 ∧ t.readReg 3 = 0) ∧
    t.readReg 4 = 0 ∧ t.readReg 5 = 0 ∧ t.readReg 6 = 0

/-- R23, R25: the registers as the host reads them, bit by bit for `STATUS`. -/
def Obligations.RegisterFile : Prop :=
  ∀ s : State,
    ((s.readReg 0).getLsbD 0 = s.execBit ∧ (s.readReg 0).getLsbD 1 = s.sinkBusy ∧
      (s.readReg 0).getLsbD 2 = decide (s.mode = .doubleBuffer) ∧ (s.readReg 0).getLsbD 3 = decide (s.active = .fb1) ∧
      (s.readReg 0).getLsbD 4 = decide (s.sinkBuf = .fb1) ∧
      (s.readReg 0).getLsbD 5 = (s.params.hasPacer && s.justRendered) ∧
      (s.readReg 0).getLsbD 8 = s.errIllegal ∧ (s.readReg 0).getLsbD 9 = s.errAlloc ∧
      (s.readReg 0).getLsbD 10 = s.errStream ∧ (s.readReg 0).getLsbD 11 = s.errAsset ∧
      ∀ i, (i = 6 ∨ i = 7 ∨ 12 ≤ i) → (s.readReg 0).getLsbD i = false) ∧
    s.readReg 1 = s.result ∧
    (s.params.hasPacer = true → s.readReg 2 = s.frameCount ∧ s.readReg 3 = s.eachMs ∧ s.readReg 4 = s.nextStart ∧
      s.readReg 5 = s.lastStart ∧ s.readReg 6 = s.lastDur) ∧
    (s.params.hasPacer = false → ∀ n : BitVec 8, 2 ≤ n.toNat → s.readReg n = 0) ∧
    ∀ n : BitVec 8, 7 ≤ n.toNat → s.readReg n = 0

/-- R23, R225: no step but reset clears an error flag. -/
def Obligations.ErrorsSticky : Prop :=
  ∀ s t : State, s.NoReset → step s = .next t →
    (s.errIllegal = true → t.errIllegal = true) ∧ (s.errAlloc = true → t.errAlloc = true) ∧
    (s.errStream = true → t.errStream = true) ∧ (s.errAsset = true → t.errAsset = true)

/-- R28, R180: only a step of ENABLEDB changes `MODE`, and nothing but reset leads back to SINGLE_BUFFER. -/
def Obligations.ModeForward : Prop :=
  (∀ s t : State, s.NoReset → step s = .next t →
    (s.mode = .doubleBuffer → t.mode = .doubleBuffer) ∧ (t.mode ≠ s.mode → s.Runs .enabledb)) ∧
  (∀ (i : Instr) (s t : State), exec i s = .next t → t.mode ≠ s.mode → i = .enabledb)

/-- R24: no other command than these four writes `RESULT`, and no step but theirs and reset. -/
def Obligations.ResultWriters : Prop :=
  (∀ (i : Instr) (s t : State), exec i s = .next t → t.result ≠ s.result →
    (∃ x y, i = .getpixel x y) ∨ i = .tick ∨ i = .cpuload ∨ ∃ n, i = .everyn n) ∧
  (∀ s t : State, s.NoReset → step s = .next t → t.result ≠ s.result →
    (∃ x y, s.Runs (.getpixel x y)) ∨ s.Runs .tick ∨ s.Runs .cpuload ∨ ∃ n, s.Runs (.everyn n))

/-- R26, R27, R216: no step but reset writes the buffer that is not active after it. -/
def Obligations.OnlyActiveWritten : Prop :=
  ∀ s t : State, s.SwapInv → s.NoReset → step s = .next t → t.buf t.active.other = s.buf t.active.other

/-- R21, R92, R34: a word is taken only while `EXEC = 0` and then goes into `CUR`; while `EXEC = 1` the offer stays and `CUR`
keeps its word; no command writes `CUR`, and no step changes the parameters. -/
def Obligations.BusyPort : Prop :=
  (∀ s t : State, step s = .next t →
    (s.execBit = true → t.host = s.host) ∧
    (t.host ≠ s.host → s.execBit = false ∧ ∃ w, s.host = w :: t.host ∧ t.cur = w) ∧
    (s.NoReset → s.execBit = true → t.cur = s.cur) ∧ t.params = s.params) ∧
  (∀ (i : Instr) (s t : State), exec i s = .next t →
    t.cur = s.cur ∧ t.params = s.params ∧ t.clkMs = s.clkMs ∧ t.host = s.host ∧ t.turns = s.turns)

/-! ### Pixels -/

/-- R51: on-screen pixels and (byte, bit) pairs correspond one to one, by the formula of the rule, and a pixel is that bit. -/
def Obligations.PixelMap : Prop :=
  ∀ p : Params, p.wf →
    (∀ x y, p.onScreen x y → (p.byteIndex x y : Int) = x + y / 8 * p.width ∧ p.byteIndex x y < p.fbSize ∧
      (bitIndex y : Int) = y % 8 ∧ bitIndex y < 8) ∧
    (∀ x y x' y', p.onScreen x y → p.onScreen x' y' → p.byteIndex x y = p.byteIndex x' y' → bitIndex y = bitIndex y' →
      x = x' ∧ y = y') ∧
    (∀ i b, i < p.fbSize → b < 8 → ∃ x y, p.onScreen x y ∧ p.byteIndex x y = i ∧ bitIndex y = b) ∧
    (∀ (s : State) (k : BufIdx) (x y : Int), s.params = p → p.onScreen x y →
      s.pixel k x y = ((s.buf k).read (p.byteIndex x y)).getLsbD (bitIndex y))

/-- R106: `PixelOp`s on different pixels commute, whatever their colours; `SET` and `CLEAR` are idempotent and `TOGGLE` is an
involution; so one colour applied to a set of pixels, each once, does not depend on the order. -/
def Obligations.PixelOpsCommute : Prop :=
  ∀ (p : Params) (m : Memory), p.height % 8 = 0 → m.wf p.fbSize →
    (∀ c c' x y x' y', (x, y) ≠ (x', y') →
      pixelOp p c x y (pixelOp p c' x' y' m) = pixelOp p c' x' y' (pixelOp p c x y m)) ∧
    (∀ c x y, c ≠ .toggle → pixelOp p c x y (pixelOp p c x y m) = pixelOp p c x y m) ∧
    (∀ x y, pixelOp p .toggle x y (pixelOp p .toggle x y m) = m) ∧
    (∀ c l₁ l₂, l₁.Perm l₂ → l₁.Nodup → plot p c l₁ m = plot p c l₂ m)

/-- R102, R100: SETPIXEL changes its own pixel's bit and nothing else; off screen, nothing; with `COL = 3` the word is illegal. -/
def Obligations.Setpixel : Prop :=
  ∀ (x y : Half) (c : Colour),
    (∀ hasPacer, decode hasPacer (.pack 0x10 c.bits 0 x y 0 0 0) = .ok (.setpixel x y c) ∧
      decode hasPacer (.pack 0x10 3 0 x y 0 0 0) = .error .reservedColour) ∧
    ∀ s : State, ∃ t, exec (.setpixel x y c) s = .next t ∧ s.OnlyDrew t ∧
      s.Recoloured t c (fun px py => px = x.toInt ∧ py = y.toInt) ∧
      (¬ s.params.onScreen x.toInt y.toInt → t = { s with execBit := false })

/-- R103, R101: GETPIXEL puts the pixel of the active buffer into `RESULT`, 0 off screen, and changes nothing else. -/
def Obligations.Getpixel : Prop :=
  ∀ (x y : Half),
    (∀ hasPacer, decode hasPacer (.pack 0x11 0 0 x y 0 0 0) = .ok (.getpixel x y)) ∧
    ∀ s : State, ∃ t, exec (.getpixel x y) s = .next t ∧ t = { s with result := t.result, execBit := false } ∧
      (s.params.onScreen x.toInt y.toInt →
        t.result = BitVec.zeroExtend 32 (BitVec.ofBool
          (((s.buf s.active).read (x.toInt + y.toInt / 8 * s.params.width).toNat).getLsbD (y.toInt % 8).toNat))) ∧
      (¬ s.params.onScreen x.toInt y.toInt → t.result = 0)

/-- R104: CLEAR makes every byte of the active buffer 0, so every pixel of it reads 0, and changes nothing else. -/
def Obligations.Clear : Prop :=
  (∀ hasPacer, decode hasPacer (.pack 0x12 0 0 0 0 0 0 0) = .ok .clear) ∧
  ∀ s : State, ∃ t, exec .clear s = .next t ∧ s.OnlyDrew t ∧
    (∀ a, a < s.params.fbSize → (t.buf s.active).read a = 0) ∧
    ∀ (x y : Half), ∃ u, exec (.getpixel x y) t = .next u ∧ u.result = 0

/-- R105: SETPIXEL and then GETPIXEL of the same pixel gives what was written; of another pixel, what it gave before; a SETPIXEL
off screen leaves both buffers. -/
def Obligations.SetThenGet : Prop :=
  ∀ (s t : State) (x y : Half) (c : Colour), exec (.setpixel x y c) s = .next t →
    (s.params.onScreen x.toInt y.toInt →
      (∃ u v, exec (.getpixel x y) s = .next u ∧ exec (.getpixel x y) t = .next v ∧
        (c = .set → v.result = 1) ∧ (c = .clear → v.result = 0) ∧ (c = .toggle → v.result = 1 - u.result)) ∧
      ∀ x' y' : Half, s.params.onScreen x'.toInt y'.toInt → (x', y') ≠ (x, y) →
        ∃ u v, exec (.getpixel x' y') s = .next u ∧ exec (.getpixel x' y') t = .next v ∧ v.result = u.result) ∧
    (¬ s.params.onScreen x.toInt y.toInt → t.fb0 = s.fb0 ∧ t.fb1 = s.fb1)

/-! ### Runs and rectangles -/

/-- R121: HLINE applies the colour to the visible columns `x` to `x + w - 1` of row `y`, and does nothing else. -/
def Obligations.Hline : Prop :=
  ∀ (x y w : Half) (c : Colour),
    (∀ hasPacer, decode hasPacer (.pack 0x20 c.bits 0 x y w 0 0) = .ok (.hline x y w c)) ∧
    ∀ s : State, ∃ t, exec (.hline x y w c) s = .next t ∧ s.OnlyDrew t ∧
      s.Recoloured t c fun px py => py = y.toInt ∧ x.toInt ≤ px ∧ px ≤ x.toInt + w.toNat - 1

/-- R122: VLINE applies the colour to the visible rows `y` to `y + h - 1` of column `x`, and does nothing else. -/
def Obligations.Vline : Prop :=
  ∀ (x y h : Half) (c : Colour),
    (∀ hasPacer, decode hasPacer (.pack 0x21 c.bits 0 x y 0 h 0) = .ok (.vline x y h c)) ∧
    ∀ s : State, ∃ t, exec (.vline x y h c) s = .next t ∧ s.OnlyDrew t ∧
      s.Recoloured t c fun px py => px = x.toInt ∧ y.toInt ≤ py ∧ py ≤ y.toInt + h.toNat - 1

/-- R123: FILLRECT applies the colour to the visible pixels of the rectangle, each once, and does nothing else. -/
def Obligations.Fillrect : Prop :=
  ∀ (x y w h : Half) (c : Colour),
    (∀ hasPacer, decode hasPacer (.pack 0x23 c.bits 0 x y w h 0) = .ok (.fillrect x y w h c)) ∧
    ∀ s : State, ∃ t, exec (.fillrect x y w h c) s = .next t ∧ s.OnlyDrew t ∧
      s.Recoloured t c fun px py =>
        (x.toInt ≤ px ∧ px < x.toInt + w.toNat) ∧ y.toInt ≤ py ∧ py < y.toInt + h.toNat

/-- R121, R122, R123: the clipped points that the meanings visit leave the same memory as the loops of the rules, which pass
every pixel of the run or rectangle, on screen or not, to `PixelOp`. -/
def Obligations.ClippingIsInvisible : Prop :=
  ∀ (p : Params) (c : Colour) (x y : Int) (w h : Nat) (m : Memory),
    plot p c (p.hlinePoints x y w) m = plot p c ((List.range w).map fun i : Nat => (x + (i : Int), y)) m ∧
    plot p c (p.vlinePoints x y h) m = plot p c ((List.range h).map fun j : Nat => (x, y + (j : Int))) m ∧
    plot p c (p.rectPoints x y w h) m =
      plot p c ((List.range w).flatMap fun i : Nat => (List.range h).map fun j : Nat => (x + (i : Int), y + (j : Int))) m

/-- R124: a run is a rectangle of one row or column, a pixel one of both; rectangles that share no pixel commute; where two of
one colour overlap, `SET` and `CLEAR` give the union and `TOGGLE` restores the overlap. -/
def Obligations.RectLaws : Prop :=
  (∀ (x y w : Half) (c : Colour) (s : State), exec (.hline x y w c) s = exec (.fillrect x y w 1 c) s) ∧
  (∀ (x y h : Half) (c : Colour) (s : State), exec (.vline x y h c) s = exec (.fillrect x y 1 h c) s) ∧
  (∀ (x y : Half) (c : Colour) (s : State), exec (.setpixel x y c) s = exec (.fillrect x y 1 1 c) s) ∧
  ∀ (x y w h x' y' w' h' : Half) (c c' : Colour) (s t u t' u' : State), s.params.wf → s.MemoriesWf →
    exec (.fillrect x y w h c) s = .next t → exec (.fillrect x' y' w' h' c') t = .next u →
    exec (.fillrect x' y' w' h' c') s = .next t' → exec (.fillrect x y w h c) t' = .next u' →
    ((∀ px py : Int, ¬ (((x.toInt ≤ px ∧ px < x.toInt + w.toNat) ∧ y.toInt ≤ py ∧ py < y.toInt + h.toNat) ∧
        (x'.toInt ≤ px ∧ px < x'.toInt + w'.toNat) ∧ y'.toInt ≤ py ∧ py < y'.toInt + h'.toNat)) → u = u') ∧
    (c = c' → u = u' ∧ ∀ px py : Int, s.params.onScreen px py →
      u.pixel s.active px py =
        if (x.toInt ≤ px ∧ px < x.toInt + w.toNat) ∧ y.toInt ≤ py ∧ py < y.toInt + h.toNat then
          if (x'.toInt ≤ px ∧ px < x'.toInt + w'.toNat) ∧ y'.toInt ≤ py ∧ py < y'.toInt + h'.toNat then
            (if c = .toggle then s.pixel s.active px py else c.applyBit (s.pixel s.active px py))
          else c.applyBit (s.pixel s.active px py)
        else if (x'.toInt ≤ px ∧ px < x'.toInt + w'.toNat) ∧ y'.toInt ≤ py ∧ py < y'.toInt + h'.toNat then
          c.applyBit (s.pixel s.active px py)
        else s.pixel s.active px py)

/-! ### The line -/

/-- R136: LINE applies the colour to the visible points of the line, and does nothing else. -/
def Obligations.Line : Prop :=
  ∀ (x0 y0 x1 y1 : Half) (c : Colour),
    (∀ hasPacer, decode hasPacer (.pack 0x22 c.bits 0 x0 y0 x1 y1 0) = .ok (.line x0 y0 x1 y1 c)) ∧
    ∀ s : State, ∃ t, exec (.line x0 y0 x1 y1 c) s = .next t ∧ s.OnlyDrew t ∧
      s.Recoloured t c fun px py => (px, py) ∈ linePoints x0.toInt y0.toInt x1.toInt y1.toInt

/-- R136: the loop of the rule in closed form, point by point, and every point within half a pixel of the true line. -/
def Obligations.LineClosedForm : Prop :=
  ∀ x0 y0 x1 y1 : Int,
    let l := lineSetup x0 y0 x1 y1
    linePoints x0 y0 x1 y1 = (List.range (l.dx.toNat + 1)).map (linePoint l) ∧
    ∀ k : Nat, (k : Int) ≤ l.dx →
      2 * (l.dx * ((k * l.dy + (l.dx - 1 - l.dx / 2)) / l.dx) - k * l.dy) ≤ l.dx ∧
      -l.dx ≤ 2 * (l.dx * ((k * l.dy + (l.dx - 1 - l.dx / 2)) / l.dx) - k * l.dy)

/-- R137: (a) the points do not depend on which end is given first, (b) how many there are, (c) they are pairwise different, (d)
both ends are among them, the one with the smaller major coordinate first, (e) from one to the next the major coordinate grows by
1 and the minor one changes by 0 or by `ystep`; so LINE with its ends exchanged has the same end state. -/
def Obligations.LineLaws : Prop :=
  (∀ (x0 y0 x1 y1 : Half) (c : Colour) (s : State), exec (.line x0 y0 x1 y1 c) s = exec (.line x1 y1 x0 y0 c) s) ∧
  ∀ x0 y0 x1 y1 : Int,
    let pts := linePoints x0 y0 x1 y1
    let steep : Prop := (y1 - y0).natAbs > (x1 - x0).natAbs
    let l := lineSetup x0 y0 x1 y1
    pts = linePoints x1 y1 x0 y0 ∧
    pts.length = max (x1 - x0).natAbs (y1 - y0).natAbs + 1 ∧
    pts.Nodup ∧
    (((steep ∧ y0 ≤ y1) ∨ (¬ steep ∧ x0 ≤ x1)) → pts.head? = some (x0, y0) ∧ pts.getLast? = some (x1, y1)) ∧
    (((steep ∧ y1 ≤ y0) ∨ (¬ steep ∧ x1 ≤ x0)) → pts.head? = some (x1, y1) ∧ pts.getLast? = some (x0, y0)) ∧
    (l.ystep = 1 ∨ l.ystep = -1) ∧
    ∀ (k : Nat) (a b : Int × Int), pts[k]? = some a → pts[k + 1]? = some b →
      (steep → b.2 = a.2 + 1 ∧ (b.1 = a.1 ∨ b.1 = a.1 + l.ystep)) ∧
      (¬ steep → b.1 = a.1 + 1 ∧ (b.2 = a.2 ∨ b.2 = a.2 + l.ystep))

/-! ### Bitmaps -/

/-- R148: the byte-wise form of the column-byte write and the pixel-wise form leave the same framebuffer. -/
def Obligations.BandSplitAgrees : Prop :=
  ∀ (p : Params) (c : Colour) (cx y a : Int) (b : Byte) (m : Memory), p.height % 8 = 0 →
    (∀ i, (bandSplitOp p c cx y a b m).read i = (columnByteOp p c cx (y + 8 * a) b m).read i) ∧
    (m.wf p.fbSize → bandSplitOp p c cx y a b m = columnByteOp p c cx (y + 8 * a) b m)

/-- R149: DRAWBITMAP with its bytes inside asset storage (or with none) applies the colour to the visible pixels under the bits
that are 1 of all `w * ceil8(h)` bytes, and does nothing else. -/
def Obligations.Drawbitmap : Prop :=
  ∀ (x y : Half) (src : Word) (w h : Half) (c : Colour),
    (∀ hasPacer, decode hasPacer (.pack 0x30 c.bits 0 x y w h src) = .ok (.drawbitmap x y src w h c)) ∧
    ∀ s : State, (w.toNat * ceil8 h.toNat = 0 ∨ src.toNat + w.toNat * ceil8 h.toNat ≤ s.params.assetSize) →
      ∃ t, exec (.drawbitmap x y src w h c) s = .next t ∧ s.OnlyDrew t ∧
        s.Recoloured t c fun px py =>
          (x.toInt ≤ px ∧ px < x.toInt + w.toNat) ∧ (y.toInt ≤ py ∧ py < y.toInt + 8 * ceil8 h.toNat) ∧
          (s.params.asset.read (src.toNat + ((py - y.toInt) / 8).toNat * w.toNat + (px - x.toInt).toNat)).getLsbD
            ((py - y.toInt) % 8).toNat = true

/-- R149, R56, R234: DRAWBITMAP that needs a byte outside asset storage sets `ERR_ASSET` and ends; only the active buffer's
contents are unspecified, and they stay inside it. The counter of free values is the model's own (log 4). -/
def Obligations.DrawbitmapAssetError : Prop :=
  ∀ (x y : Half) (src : Word) (w h : Half) (c : Colour) (s : State),
    0 < w.toNat * ceil8 h.toNat → s.params.assetSize < src.toNat + w.toNat * ceil8 h.toNat →
    ∃ t, exec (.drawbitmap x y src w h c) s = .next t ∧
      t = { s with fb0 := t.fb0, fb1 := t.fb1, freeCount := t.freeCount, errAsset := true, execBit := false } ∧
      t.buf s.active.other = s.buf s.active.other ∧ (t.buf s.active).wf s.params.fbSize

/-- R150: a bitmap of 0xFF bytes is a rectangle; drawing a bitmap with `SET` and then with `CLEAR` leaves the pixels under its 1
bits 0; twice with `TOGGLE` restores the buffer. -/
def Obligations.BitmapLaws : Prop :=
  ∀ (x y : Half) (src : Word) (w h : Half) (c : Colour) (s : State), s.params.wf → s.MemoriesWf →
    (w.toNat * ceil8 h.toNat = 0 ∨ src.toNat + w.toNat * ceil8 h.toNat ≤ s.params.assetSize) →
    ((h.toNat % 8 = 0 ∧ ∀ n < w.toNat * ceil8 h.toNat, s.params.asset.read (src.toNat + n) = 0xFF) →
      exec (.drawbitmap x y src w h c) s = exec (.fillrect x y w h c) s) ∧
    (∀ t u : State, exec (.drawbitmap x y src w h .set) s = .next t → exec (.drawbitmap x y src w h .clear) t = .next u →
      ∀ px py : Int, s.params.onScreen px py →
        u.pixel s.active px py =
          if (x.toInt ≤ px ∧ px < x.toInt + w.toNat) ∧ (y.toInt ≤ py ∧ py < y.toInt + 8 * ceil8 h.toNat) ∧
            (s.params.asset.read (src.toNat + ((py - y.toInt) / 8).toNat * w.toNat + (px - x.toInt).toNat)).getLsbD
              ((py - y.toInt) % 8).toNat = true
          then false else s.pixel s.active px py) ∧
    (∀ t u : State, exec (.drawbitmap x y src w h .toggle) s = .next t →
      exec (.drawbitmap x y src w h .toggle) t = .next u → u.fb0 = s.fb0 ∧ u.fb1 = s.fb1)

/-! ### Compressed bitmaps -/

/-- R160 to R166: asset storage that holds, from `src` upwards, a header and well-formed runs that fill the image decodes to the
runs' pixels, packed into column bytes with the first of 8 pixels in bit 0; no byte after the last bit needed is read. -/
def Obligations.DecodeWellFormed : Prop :=
  ∀ (p : Params) (src width height : Nat) (c1 : Bool) (rs : List StreamRun),
    1 ≤ width → width ≤ 256 → 1 ≤ height → height ≤ 256 → (∀ r ∈ rs, r.ok) →
    runsLength rs = width * 8 * ceil8 height →
    assetHolds p src (headerBits width height c1 ++ runsBits rs) →
    ∃ img r, decodeStream p src = .ok img r ∧ img.width = width ∧ img.bytes.length = width * ceil8 height ∧
      (∀ n < width * 8 * ceil8 height,
        (img.bytes.getD (n / 8) 0).getLsbD (n % 8) = (runsPixels c1 rs).getD n false) ∧
      r.pos.toNat = ((headerBits width height c1 ++ runsBits rs).length + 7) / 8

/-- R163, R168: after well-formed runs that do not fill the image, a run longer than what is missing, or a selector of more than 8
zero bits, raises `ERR_STREAM`. -/
def Obligations.DecodeMalformed : Prop :=
  ∀ (p : Params) (src width height : Nat) (c1 : Bool) (rs : List StreamRun),
    1 ≤ width → width ≤ 256 → 1 ≤ height → height ≤ 256 → (∀ r ∈ rs, r.ok) →
    runsLength rs < width * 8 * ceil8 height →
    (∀ r : StreamRun, r.ok → width * 8 * ceil8 height - runsLength rs < r.len →
      assetHolds p src (headerBits width height c1 ++ runsBits rs ++ r.bits) →
      ∃ q, decodeStream p src = .err .stream q) ∧
    (assetHolds p src (headerBits width height c1 ++ runsBits rs ++ List.replicate 9 false) →
      ∃ q, decodeStream p src = .err .stream q)

/-- R167, R166: DRAWCOMPRESSED of a stream that decodes draws the decoded column bytes as the raw blitter draws a bitmap of that
width, and does nothing else outside the decoder registers. -/
def Obligations.Drawcompressed : Prop :=
  ∀ (x y : Half) (src : Word) (c : Colour),
    (∀ hasPacer, decode hasPacer (.pack 0x31 c.bits 0 x y 0 0 src) = .ok (.drawcompressed x y src c)) ∧
    ∀ (s : State) (img : Image) (r : Rle), decodeStream s.params src.toNat = .ok img r →
      ∃ t, exec (.drawcompressed x y src c) s = .next t ∧
        t = { s with fb0 := t.fb0, fb1 := t.fb1, rle := r, execBit := false } ∧
        t.buf s.active.other = s.buf s.active.other ∧
        s.Recoloured t c fun px py => bitmapPixel img.width img.bytes (px - x.toInt) (py - y.toInt)

/-- R160 to R167: DRAWCOMPRESSED of a well-formed stream, end to end: pixel `(col, row)` of the image is pixel number
`(row div 8) * width * 8 + col * 8 + row mod 8` of the runs, and the screen pixels under pixels of run colour 1 take the colour. -/
def Obligations.DrawcompressedWellFormed : Prop :=
  ∀ (x y : Half) (src : Word) (c : Colour) (s : State) (width height : Nat) (c1 : Bool) (rs : List StreamRun),
    1 ≤ width → width ≤ 256 → 1 ≤ height → height ≤ 256 → (∀ r ∈ rs, r.ok) →
    runsLength rs = width * 8 * ceil8 height →
    assetHolds s.params src.toNat (headerBits width height c1 ++ runsBits rs) →
    ∃ t, exec (.drawcompressed x y src c) s = .next t ∧
      t = { s with fb0 := t.fb0, fb1 := t.fb1, rle := t.rle, execBit := false } ∧
      t.buf s.active.other = s.buf s.active.other ∧
      s.Recoloured t c fun px py =>
        (x.toInt ≤ px ∧ px < x.toInt + width) ∧ (y.toInt ≤ py ∧ py < y.toInt + 8 * ceil8 height) ∧
        (runsPixels c1 rs).getD
          (((py - y.toInt) / 8).toNat * width * 8 + (px - x.toInt).toNat * 8 + ((py - y.toInt) % 8).toNat) false = true

/-- R167, R168, R56, R234: a stream that does not decode sets `ERR_STREAM` or `ERR_ASSET`, the one that the decoder met; only the
active buffer and the decoder registers are touched besides, and the unspecified contents stay inside the buffer. A stream that
starts outside asset storage raises `ERR_ASSET`. The counter of free values is the model's own (log 4). -/
def Obligations.DrawcompressedError : Prop :=
  (∀ (x y : Half) (src : Word) (c : Colour) (s : State) (e : ErrorKind) (r : Rle),
    decodeStream s.params src.toNat = .err e r →
    (e = .stream ∨ e = .asset) ∧
    ∃ t, exec (.drawcompressed x y src c) s = .next t ∧
      t = { s with fb0 := t.fb0, fb1 := t.fb1, rle := r, freeCount := t.freeCount, execBit := false
                   errStream := s.errStream || decide (e = .stream), errAsset := s.errAsset || decide (e = .asset) } ∧
      t.buf s.active.other = s.buf s.active.other ∧ (t.buf s.active).wf s.params.fbSize) ∧
  (∀ (p : Params) (src : Nat), p.assetSize ≤ src → ∃ r, decodeStream p src = .err .asset r)

/-! ### The swap controller -/

/-- R181: the three cases of ENABLEDB; nothing but `MODE`, `ERR_ALLOC` and `EXEC` changes. -/
def Obligations.Enabledb : Prop :=
  (∀ hasPacer, decode hasPacer (.pack 0x40 0 0 0 0 0 0 0) = .ok .enabledb) ∧
  ∀ s : State, ∃ t, exec .enabledb s = .next t ∧
    t = { s with mode := t.mode, errAlloc := t.errAlloc, execBit := false } ∧
    (s.mode = .doubleBuffer → t.mode = .doubleBuffer ∧ t.errAlloc = s.errAlloc) ∧
    (s.mode = .singleBuffer → s.params.hasBuf1 = true → t.mode = .doubleBuffer ∧ t.errAlloc = s.errAlloc) ∧
    (s.mode = .singleBuffer → s.params.hasBuf1 = false → t.mode = .singleBuffer ∧ t.errAlloc = true)

/-- R182, R184: the steps of PRESENT: held while a presentation is in flight; in SINGLE_BUFFER the hand-off, then the end with the
optional clear; in DOUBLE_BUFFER the swap, the hand-off and the optional clear of the new active buffer at once. The frame handed
over is the bytes of the buffer as they stand. -/
def Obligations.Present : Prop :=
  ∀ (clr : Bool),
    (∀ hasPacer, decode hasPacer (.pack 0x41 0 (BitVec.ofBool clr) 0 0 0 0 0) = .ok (.present clr)) ∧
    ∀ s : State,
      (s.sinkBusy = true → exec (.present clr) s = .next s) ∧
      (s.sinkBusy = false → s.mode = .singleBuffer → s.phase = false → ∃ t frame,
        exec (.present clr) s = .next t ∧
        t = { s with sinkBuf := .fb0, sinkBusy := true, phase := true, out := s.out ++ [.paintScreen .fb0 frame] } ∧
        frame.length = s.params.fbSize ∧ ∀ i, i < s.params.fbSize → frame[i]? = some (s.fb0.read i)) ∧
      (s.sinkBusy = false → s.mode = .singleBuffer → s.phase = true → ∃ t,
        exec (.present clr) s = .next t ∧ t = { s with fb0 := t.fb0, execBit := false } ∧
        (clr = false → t.fb0 = s.fb0) ∧ (clr = true → ∀ i, i < s.params.fbSize → t.fb0.read i = 0)) ∧
      (s.sinkBusy = false → s.mode = .doubleBuffer → ∃ t frame,
        exec (.present clr) s = .next t ∧
        t = { s with fb0 := t.fb0, fb1 := t.fb1, active := s.active.other, sinkBuf := s.active, sinkBusy := true
                     out := s.out ++ [.paintScreen s.active frame], execBit := false } ∧
        (frame.length = s.params.fbSize ∧ ∀ i, i < s.params.fbSize → frame[i]? = some ((s.buf s.active).read i)) ∧
        t.buf s.active = s.buf s.active ∧
        (clr = false → t.buf s.active.other = s.buf s.active.other) ∧
        (clr = true → ∀ i, i < s.params.fbSize → (t.buf s.active.other).read i = 0))

/-- R185: WAITP is held while a presentation is in flight and else ends at once, changing nothing but `EXEC`. -/
def Obligations.Waitp : Prop :=
  (∀ hasPacer, decode hasPacer (.pack 0x42 0 0 0 0 0 0 0) = .ok .waitp) ∧
  ∀ s : State, (s.sinkBusy = true → exec .waitp s = .next s) ∧
    (s.sinkBusy = false → exec .waitp s = .next { s with execBit := false })

/-- R184, R188: a held PRESENT or WAITP changes nothing when the core moves, and ends with the core's next move once the sink has
taken its step, which changes `SINK_BUSY` alone (R183). Whose turn it is, is the model's own form (log 6). -/
def Obligations.HeldUntilSinkDone : Prop :=
  ∀ (s : State) (i : Instr), s.SwapInv → s.execBit = true → s.sinkBusy = true →
    decode s.params.hasPacer s.cur = .ok i → (i = .waitp ∨ ∃ clr, i = .present clr) →
    (s.CoreTurn → step s = .next { s with turns := s.turns.tail }) ∧
    (∀ ts, s.turns = .sinkDone :: ts → (ts = [] ∨ ts.head? = some .core) → ∃ u,
      step s = .next { s with turns := ts, sinkBusy := false } ∧
      step { s with turns := ts, sinkBusy := false } = .next u ∧ u.execBit = false)

/-- R224, R183: the sink's completion step and the step of a command that has no hold commute. -/
def Obligations.SinkDoneCommutes : Prop :=
  ∀ (i : Instr) (s t : State), i ≠ .waitp → (∀ clr, i ≠ .present clr) → exec i s = .next t →
    exec i s.sinkDone = .next t.sinkDone

/-- R186: no step but reset writes the buffer in flight. -/
def Obligations.NonInterference : Prop :=
  ∀ s t : State, s.SwapInv → s.NoReset → s.sinkBusy = true → step s = .next t →
    t.buf s.sinkBuf = s.buf s.sinkBuf

/-- R187, R65: every step keeps the buffer in flight equal to the frame that was handed over with it; it is so after reset. -/
def Obligations.FrameInFlight : Prop :=
  (∀ s t : State, s.Inv → s.FrameInv → step s = .next t → t.FrameInv) ∧ State.reset.FrameInv

/-! ### The pacer -/

/-- R201: SETRATE sets the frame period to `1000 div rate`, and changes nothing else; a rate of 0 or above 1000 makes the word
illegal. -/
def Obligations.Setrate : Prop :=
  ∀ rate : Half,
    (rate.toNat = 0 ∨ 1000 < rate.toNat → decode true (.pack 0x50 0 0 0 0 rate 0 0) = .error .rateRange) ∧
    (1 ≤ rate.toNat → rate.toNat ≤ 1000 →
      decode true (.pack 0x50 0 0 0 0 rate 0 0) = .ok (.setrate rate) ∧
      ∀ s : State, s.params.hasPacer = true → ∃ t, exec (.setrate rate) s = .next t ∧
        t = { s with eachMs := t.eachMs, execBit := false } ∧ t.eachMs.toNat = 1000 / rate.toNat)

/-- R202, R205, R206: the three branches of TICK, with everything else unchanged; the differences and sums are reduced modulo
2^32. -/
def Obligations.Tick : Prop :=
  decode true (.pack 0x51 0 0 0 0 0 0 0) = .ok .tick ∧
  ∀ s : State, s.params.hasPacer = true → ∃ t, exec .tick s = .next t ∧
    (s.justRendered = true →
      t = { s with lastDur := t.lastDur, justRendered := false, result := 0, execBit := false } ∧
      (t.lastDur.toNat : Int) = ((s.clkMs.toNat : Int) - s.lastStart.toNat) % 2 ^ 32) ∧
    (s.justRendered = false → s.clkMs.toNat < s.nextStart.toNat →
      t = { s with out := t.out, result := 0, execBit := false } ∧
      (s.params.idleThresholdMs ≤ s.nextStart.toNat - s.clkMs.toNat → t.out = s.out ++ [.idleReq]) ∧
      (s.nextStart.toNat - s.clkMs.toNat < s.params.idleThresholdMs → t.out = s.out)) ∧
    (s.justRendered = false → s.nextStart.toNat ≤ s.clkMs.toNat →
      t = { s with justRendered := true, lastStart := s.clkMs, nextStart := t.nextStart, frameCount := t.frameCount
                   result := 1, execBit := false } ∧
      t.nextStart.toNat = (s.clkMs.toNat + s.eachMs.toNat) % 2 ^ 32 ∧
      t.frameCount.toInt = (s.frameCount.toInt + 1).bmod (2 ^ 32))

/-- R202: the TICK right after a granting TICK answers 0, whatever the clock says. -/
def Obligations.NoTwoGrants : Prop :=
  ∀ (s t u : State) (ms : Word), s.params.hasPacer = true → exec .tick s = .next t → t.result = 1 →
    exec .tick { t with clkMs := ms } = .next u → u.result = 0

/-- R202, R208: the first TICK after reset grants frame 0, for any clock value. -/
def Obligations.FirstTickGrants : Prop :=
  ∀ (p : Params) (n : Nat) (ms : Word), p.wf → p.hasPacer = true → ∃ t,
    exec .tick { State.atReset p n with clkMs := ms } = .next t ∧ t.result = 1 ∧ t.frameCount = 0 ∧ t.lastStart = ms ∧
      (ms.toNat + 1000 / p.defaultRate < 2 ^ 32 → t.nextStart.toNat = ms.toNat + 1000 / p.defaultRate) ∧
      t.justRendered = true

/-- R203: CPULOAD answers `(LAST_DUR * 100) div EACH_MS`, reduced to 32 bits, and changes nothing else. -/
def Obligations.Cpuload : Prop :=
  decode true (.pack 0x52 0 0 0 0 0 0 0) = .ok .cpuload ∧
  ∀ s : State, s.params.hasPacer = true → ∃ t, exec .cpuload s = .next t ∧
    t = { s with result := t.result, execBit := false } ∧
    (s.eachMs ≠ 0 → t.result.toNat = s.lastDur.toNat * 100 / s.eachMs.toNat % 2 ^ 32)

/-- R204: EVERYN answers 1 when `n` divides the signed frame count and else 0, and changes nothing else; `n = 0` makes the word
illegal. -/
def Obligations.Everyn : Prop :=
  decode true (.pack 0x53 0 0 0 0 0 0 0) = .error .everyZero ∧
  ∀ n : Half, 1 ≤ n.toNat →
    decode true (.pack 0x53 0 0 0 0 n 0 0) = .ok (.everyn n) ∧
    ∀ s : State, s.params.hasPacer = true → ∃ t, exec (.everyn n) s = .next t ∧
      t = { s with result := t.result, execBit := false } ∧
      ((n.toNat : Int) ∣ s.frameCount.toInt → t.result = 1) ∧ (¬ (n.toNat : Int) ∣ s.frameCount.toInt → t.result = 0)

/-- R207: the frame count is -1 after reset; only a granting TICK writes it, of all commands and of all steps but reset, and adds
1. -/
def Obligations.FrameCountGrants : Prop :=
  (∀ (p : Params) (n : Nat), (State.atReset p n).frameCount.toInt = -1) ∧
  (∀ (i : Instr) (s t : State), exec i s = .next t → t.frameCount ≠ s.frameCount → i = .tick ∧ t.result = 1) ∧
  (∀ s t : State, s.NoReset → step s = .next t → t.frameCount ≠ s.frameCount →
    s.Runs .tick ∧ t.result = 1 ∧ t.frameCount = s.frameCount + 1) ∧
  (∀ s t : State, s.params.hasPacer = true → exec .tick s = .next t → t.result = 1 → t.frameCount = s.frameCount + 1)

/-- R200: without the pacer no word decodes to a pacer command and its registers read 0; a pacer command touches nothing but the
pacer, `RESULT`, `EXEC` and the idle request; no other command touches the pacer, and none reads it. -/
def Obligations.PacerIndependent : Prop :=
  (∀ (w : CommandWord) (i : Instr), decode false w = .ok i → i.isPacer = false) ∧
  (∀ s : State, s.params.hasPacer = false →
    (∀ n : BitVec 8, 2 ≤ n.toNat → n.toNat ≤ 6 → s.readReg n = 0) ∧ (s.readReg 0).getLsbD 5 = false) ∧
  (∀ (i : Instr) (s t : State), i.wellFormed s.params.hasPacer = true → i.isPacer = true → exec i s = .next t →
    t = { s with eachMs := t.eachMs, nextStart := t.nextStart, lastStart := t.lastStart, lastDur := t.lastDur
                 frameCount := t.frameCount, justRendered := t.justRendered, result := t.result, out := t.out
                 execBit := false } ∧
    (t.out = s.out ∨ t.out = s.out ++ [.idleReq])) ∧
  (∀ (i : Instr) (s t : State) (a b c d e : Word) (j : Bool), i.isPacer = false → exec i s = .next t →
    exec i { s with eachMs := a, nextStart := b, lastStart := c, lastDur := d, frameCount := e, justRendered := j } =
      .next { t with eachMs := a, nextStart := b, lastStart := c, lastDur := d, frameCount := e, justRendered := j } ∧
    t.eachMs = s.eachMs ∧ t.nextStart = s.nextStart ∧ t.lastStart = s.lastStart ∧ t.lastDur = s.lastDur ∧
    t.frameCount = s.frameCount ∧ t.justRendered = s.justRendered)

/-- The model's choice (log 11), after R87 (b), (e), (f): a pacer command on hardware without the pacer, or with an operand outside
its range, has the effect of an illegal word. -/
def Obligations.PacerTurnedAway : Prop :=
  ∀ (i : Instr) (s : State), i.wellFormed s.params.hasPacer = false →
    exec i s = .next { s with errIllegal := true, execBit := false }
end

