-- ==== Sys2Proof/Laws/Decode.lean ====
section
/-!
SUPPORT. The fields of a packed word, that a word is the packing of its fields when its reserved fields are zero, and the small
lemmas of the opcode and colour numbers.
-/

namespace Sys2Proof

section
variable (opc : BitVec 8) (col : BitVec 2) (clr : BitVec 1) (a b c d : Half) (src : Word)

/-- A packed word as a number: nothing is lost. -/
theorem CommandWord.toNat_pack : (pack opc col clr a b c d src).toNat =
    opc.toNat + 2 ^ 8 * col.toNat + 2 ^ 10 * clr.toNat + 2 ^ 16 * a.toNat + 2 ^ 32 * b.toNat + 2 ^ 48 * c.toNat +
      2 ^ 64 * d.toNat + 2 ^ 80 * src.toNat := by
  have := opc.isLt; have := col.isLt; have := clr.isLt; have := a.isLt; have := b.isLt; have := c.isLt
  have := d.isLt; have := src.isLt
  rw [pack, BitVec.toNat_ofNat, Nat.mod_eq_of_lt]
  omega

/-- A field of a word as a number. -/
theorem toNat_field (w : CommandWord) (start len : Nat) :
    (w.extractLsb' start len).toNat = w.toNat / 2 ^ start % 2 ^ len := by
  simp [BitVec.extractLsb'_toNat, Nat.shiftRight_eq_div_pow]

@[simp] theorem CommandWord.opc_pack : (pack opc col clr a b c d src).opc = opc := by
  apply BitVec.eq_of_toNat_eq
  rw [CommandWord.opc, toNat_field, toNat_pack]
  have := opc.isLt
  omega

@[simp] theorem CommandWord.col_pack : (pack opc col clr a b c d src).col = col := by
  apply BitVec.eq_of_toNat_eq
  rw [CommandWord.col, toNat_field, toNat_pack]
  have := opc.isLt; have := col.isLt
  omega

@[simp] theorem CommandWord.clr_pack : (pack opc col clr a b c d src).clr = clr := by
  apply BitVec.eq_of_toNat_eq
  rw [CommandWord.clr, toNat_field, toNat_pack]
  have := opc.isLt; have := col.isLt; have := clr.isLt
  omega

@[simp] theorem CommandWord.rsv0_pack : (pack opc col clr a b c d src).rsv0 = 0 := by
  apply BitVec.eq_of_toNat_eq
  rw [CommandWord.rsv0, toNat_field, toNat_pack]
  change _ = 0
  have := opc.isLt; have := col.isLt; have := clr.isLt
  omega

@[simp] theorem CommandWord.a_pack : (pack opc col clr a b c d src).a = a := by
  apply BitVec.eq_of_toNat_eq
  rw [CommandWord.a, toNat_field, toNat_pack]
  have := opc.isLt; have := col.isLt; have := clr.isLt; have := a.isLt
  omega

@[simp] theorem CommandWord.b_pack : (pack opc col clr a b c d src).b = b := by
  apply BitVec.eq_of_toNat_eq
  rw [CommandWord.b, toNat_field, toNat_pack]
  have := opc.isLt; have := col.isLt; have := clr.isLt; have := a.isLt; have := b.isLt
  omega

@[simp] theorem CommandWord.c_pack : (pack opc col clr a b c d src).c = c := by
  apply BitVec.eq_of_toNat_eq
  rw [CommandWord.c, toNat_field, toNat_pack]
  have := opc.isLt; have := col.isLt; have := clr.isLt; have := a.isLt; have := b.isLt; have := c.isLt
  omega

@[simp] theorem CommandWord.d_pack : (pack opc col clr a b c d src).d = d := by
  apply BitVec.eq_of_toNat_eq
  rw [CommandWord.d, toNat_field, toNat_pack]
  have := opc.isLt; have := col.isLt; have := clr.isLt; have := a.isLt; have := b.isLt; have := c.isLt
  have := d.isLt
  omega

@[simp] theorem CommandWord.src_pack : (pack opc col clr a b c d src).src = src := by
  apply BitVec.eq_of_toNat_eq
  rw [CommandWord.src, toNat_field, toNat_pack]
  have := opc.isLt; have := col.isLt; have := clr.isLt; have := a.isLt; have := b.isLt; have := c.isLt
  have := d.isLt; have := src.isLt
  omega

@[simp] theorem CommandWord.rsv1_pack : (pack opc col clr a b c d src).rsv1 = 0 := by
  apply BitVec.eq_of_toNat_eq
  rw [CommandWord.rsv1, toNat_field, toNat_pack]
  change _ = 0
  have := opc.isLt; have := col.isLt; have := clr.isLt; have := a.isLt; have := b.isLt; have := c.isLt
  have := d.isLt; have := src.isLt
  omega
end

/-- A word whose reserved fields are zero is the packing of its other fields. -/
theorem CommandWord.pack_fields {w : CommandWord} (h0 : w.rsv0 = 0) (h1 : w.rsv1 = 0) :
    pack w.opc w.col w.clr w.a w.b w.c w.d w.src = w := by
  apply BitVec.eq_of_toNat_eq
  have h0 := congrArg BitVec.toNat h0
  have h1 := congrArg BitVec.toNat h1
  rw [CommandWord.rsv0, toNat_field] at h0
  rw [CommandWord.rsv1, toNat_field] at h1
  change _ = 0 at h0
  change _ = 0 at h1
  rw [toNat_pack]
  simp only [opc, col, clr, a, b, c, d, src, toNat_field]
  have := w.isLt
  omega

@[simp] theorem Opcode.ofBits?_bits (op : Opcode) : Opcode.ofBits? op.bits = some op := by cases op <;> rfl

@[simp] theorem Colour.ofBits?_bits (c : Colour) : Colour.ofBits? c.bits = some c := by cases c <;> rfl

theorem Opcode.bits_of_ofBits? {b : BitVec 8} {op : Opcode} (h : Opcode.ofBits? b = some op) : b = op.bits := by
  apply BitVec.eq_of_toNat_eq
  unfold Opcode.ofBits? at h
  split at h <;> cases h
  all_goals (rename_i e; rw [e]; rfl)

theorem Colour.bits_of_ofBits? {b : BitVec 2} {c : Colour} (h : Colour.ofBits? b = some c) : b = c.bits := by
  apply BitVec.eq_of_toNat_eq
  unfold Colour.ofBits? at h
  split at h <;> cases h
  all_goals (rename_i e; rw [e]; rfl)

/-- The opcode byte of an encoded command is its row's (R85). -/
theorem opc_encode (i : Instr) : (encode i).opc = i.opcode.bits := by cases i <;> simp [encode]

end Sys2Proof
end

