-- ==== Sys2Proof/Laws/Memory.lean ====
section
/-!
SUPPORT. The laws of a byte memory: a read after a write, and that every operation keeps the canonical form `Memory.wf`; two
memories in that form over one background that read alike are equal.
-/

namespace Sys2Proof

@[simp] theorem Memory.background_write (m : Memory) (a : Nat) (v : Byte) : (m.write a v).background = m.background := rfl

@[simp] theorem Memory.unlisted_write (m : Memory) (a : Nat) (v : Byte) (b : Nat) :
    (m.write a v).unlisted b = m.unlisted b := rfl

theorem lookup_cons_cell (c : Host.Cell) (cs : List Host.Cell) (b : Nat) :
    (c :: cs).lookup b = if b = c.1 then some c.2 else cs.lookup b := by
  rw [List.lookup_cons]
  by_cases h : b = c.1
  · simp [h]
  · have : (b == c.1) = false := by simpa using h
    simp [h, this]

theorem lookup_insertCell (a : Nat) (v : Byte) (b : Nat) (cs : List Host.Cell) :
    (insertCell a v cs).lookup b = if b = a then some v else cs.lookup b := by
  induction cs with
  | nil => simp [insertCell, lookup_cons_cell]
  | cons c cs ih =>
    simp only [insertCell]
    split_ifs <;> simp_all [lookup_cons_cell]

theorem lookup_eraseCell (a b : Nat) (cs : List Host.Cell) :
    (cs.filter fun c => c.1 != a).lookup b = if b = a then none else cs.lookup b := by
  induction cs with
  | nil => simp
  | cons c cs ih =>
    by_cases h : c.1 = a
    · rw [List.filter_cons_of_neg (by simp [h]), ih, lookup_cons_cell]
      split_ifs <;> simp_all
    · rw [List.filter_cons_of_pos (by simp [h]), lookup_cons_cell, ih, lookup_cons_cell]
      split_ifs <;> simp_all

/-- A read after a write. -/
theorem Memory.read_write (m : Memory) (a : Nat) (v : Byte) (b : Nat) :
    (m.write a v).read b = if b = a then v else m.read b := by
  unfold Memory.read
  rw [Memory.unlisted_write]
  by_cases hv : v = m.unlisted a
  · by_cases h : b = a
    · subst h; simp [Memory.write, ← hv, lookup_eraseCell]
    · simp [Memory.write, ← hv, lookup_eraseCell, h]
  · by_cases h : b = a
    · subst h; simp [Memory.write, hv, lookup_insertCell]
    · simp [Memory.write, hv, lookup_insertCell, h]

@[simp] theorem Memory.read_write_self (m : Memory) (a : Nat) (v : Byte) : (m.write a v).read a = v := by
  simp [Memory.read_write]

theorem Memory.read_write_of_ne (m : Memory) {a b : Nat} (v : Byte) (h : b ≠ a) : (m.write a v).read b = m.read b := by
  simp [Memory.read_write, h]

@[simp] theorem Memory.read_cleared (a : Nat) : Memory.cleared.read a = 0 := rfl

theorem Memory.wf_cleared (size : Nat) : Memory.cleared.wf size := by simp [Memory.wf, Memory.cleared]

theorem Machine.wf_unspecified (size n : Nat) : (Machine.unspecified n).wf size := by
  simp [Memory.wf, Machine.unspecified]

theorem mem_insertCell {a : Nat} {v : Byte} {cs : List Host.Cell} {c : Host.Cell} (h : c ∈ insertCell a v cs) :
    c = (a, v) ∨ c ∈ cs := by
  induction cs with
  | nil => simpa [insertCell] using h
  | cons d cs ih =>
    simp only [insertCell] at h
    split_ifs at h with h1 h2
    · simpa using h
    · rcases List.mem_cons.1 h with h | h
      · exact .inl h
      · exact .inr (List.mem_cons_of_mem _ h)
    · rcases List.mem_cons.1 h with h | h
      · exact .inr (h ▸ List.mem_cons_self)
      · exact (ih h).imp id (List.mem_cons_of_mem _)

theorem pairwise_insertCell {a : Nat} {v : Byte} {cs : List Host.Cell}
    (h : cs.Pairwise fun c d => c.1 < d.1) : (insertCell a v cs).Pairwise fun c d => c.1 < d.1 := by
  induction cs with
  | nil => simp [insertCell]
  | cons d cs ih =>
    obtain ⟨hd, hcs⟩ := List.pairwise_cons.1 h
    simp only [insertCell]
    split_ifs with h1 h2
    · refine List.pairwise_cons.2 ⟨?_, h⟩
      intro c hc
      rcases List.mem_cons.1 hc with rfl | hc
      · exact h1
      · exact h1.trans (hd c hc)
    · exact List.pairwise_cons.2 ⟨fun c hc => h2 ▸ hd c hc, hcs⟩
    · refine List.pairwise_cons.2 ⟨?_, ih hcs⟩
      intro c hc
      rcases mem_insertCell hc with rfl | hc
      · exact lt_of_le_of_ne (not_lt.1 h1) (Ne.symm h2)
      · exact hd c hc

/-- A write inside the memory keeps the canonical form. -/
theorem Memory.wf_write {size : Nat} {m : Memory} (h : m.wf size) {a : Nat} (ha : a < size) (v : Byte) :
    (m.write a v).wf size := by
  obtain ⟨hp, hc⟩ := h
  by_cases hv : v = m.unlisted a
  · simp only [Memory.wf, Memory.unlisted_write]
    simp only [Memory.write, if_pos hv]
    exact ⟨hp.sublist List.filter_sublist, fun c h => hc c (List.mem_filter.1 h).1⟩
  · simp only [Memory.wf, Memory.unlisted_write]
    simp only [Memory.write, if_neg hv]
    refine ⟨pairwise_insertCell hp, fun c h => ?_⟩
    rcases mem_insertCell h with rfl | h
    · exact ⟨ha, hv⟩
    · exact hc c h

theorem lookup_eq_some_of_mem {cs : List Host.Cell} (h : cs.Pairwise fun c d => c.1 < d.1) {c : Host.Cell}
    (hc : c ∈ cs) : cs.lookup c.1 = some c.2 := by
  induction cs with
  | nil => cases hc
  | cons d cs ih =>
    obtain ⟨hd, hcs⟩ := List.pairwise_cons.1 h
    rw [lookup_cons_cell]
    rcases List.mem_cons.1 hc with rfl | hc
    · simp
    · rw [if_neg (hd c hc).ne', ih hcs hc]

theorem mem_of_lookup_eq_some {cs : List Host.Cell} {a : Nat} {v : Byte} (h : cs.lookup a = some v) : (a, v) ∈ cs := by
  induction cs with
  | nil => simp at h
  | cons d cs ih =>
    rw [lookup_cons_cell] at h
    split_ifs at h with had
    · cases h; exact had ▸ List.mem_cons_self
    · exact List.mem_cons_of_mem _ (ih h)

/-- A cell is listed exactly where a read differs from the unlisted byte. -/
theorem Memory.mem_cells_iff {size : Nat} {m : Memory} (h : m.wf size) (c : Host.Cell) :
    c ∈ m.cells ↔ m.read c.1 = c.2 ∧ c.2 ≠ m.unlisted c.1 := by
  constructor
  · intro hc
    exact ⟨by simp [Memory.read, lookup_eq_some_of_mem h.1 hc], (h.2 c hc).2⟩
  · rintro ⟨hr, hne⟩
    unfold Memory.read at hr
    split at hr
    · rename_i v hv
      subst hr
      exact mem_of_lookup_eq_some hv
    · exact absurd hr.symm hne

/-- Canonical memories over one background that read alike are equal. -/
theorem Memory.ext_read {size : Nat} {m n : Memory} (hm : m.wf size) (hn : n.wf size)
    (hb : m.background = n.background) (h : ∀ a, m.read a = n.read a) : m = n := by
  have hu : ∀ a, m.unlisted a = n.unlisted a := fun a => by simp [Memory.unlisted, hb]
  have hmem : ∀ c, c ∈ m.cells ↔ c ∈ n.cells := fun c => by
    rw [Memory.mem_cells_iff hm, Memory.mem_cells_iff hn, h, hu]
  have nodup : ∀ {k : Memory}, k.wf size → k.cells.Nodup := fun hk =>
    hk.1.imp fun {c d} hlt heq => by simp [heq] at hlt
  have hperm : m.cells.Perm n.cells := (List.perm_ext_iff_of_nodup (nodup hm) (nodup hn)).2 hmem
  have hcells : m.cells = n.cells :=
    hperm.eq_of_pairwise (fun c d _ _ h1 h2 => absurd (h1.trans h2) (lt_irrefl _)) hm.1 hn.1
  cases m; cases n; simp_all

/-- `AssetRead` in a row: all the bytes when the last one is inside asset storage, or when there are none; else an error. -/
theorem assetBytes_eq (p : Params) (a n : Nat) :
    assetBytes p a n =
      if n = 0 ∨ a + n ≤ p.assetSize then some ((List.range n).map fun i => p.asset.read (a + i)) else none := by
  induction n generalizing a with
  | zero => simp [assetBytes]
  | succ n ih =>
    rw [assetBytes, assetRead, ih]
    by_cases h : a + (n + 1) ≤ p.assetSize
    · rw [if_pos (show a < p.assetSize by omega), if_pos (by omega), if_pos (.inr h)]
      simp only [List.range_succ_eq_map, List.map_cons, List.map_map, Function.comp_def, Option.map_some, Nat.add_zero,
        show ∀ i, a + 1 + i = a + i.succ by omega]
    · rw [if_neg (show ¬(n + 1 = 0 ∨ a + (n + 1) ≤ p.assetSize) by omega)]
      by_cases ha : a < p.assetSize
      · rw [if_pos ha, if_neg (by omega)]; rfl
      · rw [if_neg ha]

end Sys2Proof
end

