-- ==== Sys2Proof/Laws/Pixel.lean ====
section
/-!
SUPPORT. What `pixelOp`, `plot`, `columnByteOp` and `blitBytes` can do: which pixels and which bytes they change, that they keep
the canonical form and the background, that the pixel map is injective and stays inside the buffer.
-/

namespace Sys2Proof

/-! ### The pixel map (20_memory.md R51) -/

theorem bitIndex_lt (y : Int) : bitIndex y < 8 := by unfold bitIndex; omega

theorem Params.byteIndex_cast {p : Params} {x y : Int} (h : p.onScreen x y) :
    (p.byteIndex x y : Int) = x + y / 8 * p.width := by
  obtain ⟨⟨hx, _⟩, hy, _⟩ := h
  unfold Params.byteIndex
  have : 0 ≤ y / 8 * (p.width : Int) := mul_nonneg (by omega) (by omega)
  omega

theorem Params.byteIndex_lt {p : Params} (h8 : p.height % 8 = 0) {x y : Int} (h : p.onScreen x y) :
    p.byteIndex x y < p.fbSize := by
  have hc := Params.byteIndex_cast h
  obtain ⟨⟨hx, hxw⟩, hy, hyh⟩ := h
  have hb : y / 8 + 1 ≤ (p.bands : Int) := by unfold Params.bands; omega
  have := mul_le_mul_of_nonneg_right hb (show (0 : Int) ≤ p.width by omega)
  have : ((p.fbSize : Nat) : Int) = p.bands * p.width := by simp [Params.fbSize, mul_comm]
  rw [add_mul] at *
  omega

theorem Params.pixel_map_inj {p : Params} {x y x' y' : Int} (h : p.onScreen x y) (h' : p.onScreen x' y')
    (hi : p.byteIndex x y = p.byteIndex x' y') (hb : bitIndex y = bitIndex y') : x = x' ∧ y = y' := by
  have hc := Params.byteIndex_cast h
  have hc' := Params.byteIndex_cast h'
  obtain ⟨⟨hx, hxw⟩, hy, _⟩ := h
  obtain ⟨⟨hx', hxw'⟩, hy', _⟩ := h'
  have e : x + y / 8 * (p.width : Int) = x' + y' / 8 * p.width := by rw [← hc, ← hc', hi]
  have hw : (0 : Int) < p.width := by omega
  have hband : y / 8 = y' / 8 := by
    have e1 := congrArg (· / (p.width : Int)) e
    simpa [Int.add_mul_ediv_right _ _ hw.ne', Int.ediv_eq_zero_of_lt hx hxw, Int.ediv_eq_zero_of_lt hx' hxw'] using e1
  rw [hband] at e
  unfold bitIndex at hb
  omega

/-! ### One pixel -/

theorem Colour.getLsbD_apply (c : Colour) (d m : Byte) (j : Nat) (hj : j < 8) :
    (c.apply d m).getLsbD j = if m.getLsbD j then c.applyBit (d.getLsbD j) else d.getLsbD j := by
  cases c <;> cases h : m.getLsbD j <;> cases h' : d.getLsbD j <;> simp_all [Colour.apply, Colour.applyBit]

theorem getLsbD_one_shiftLeft (b j : Nat) (hj : j < 8) : (1#8 <<< b).getLsbD j = decide (j = b) := by
  simp only [BitVec.getLsbD_shiftLeft, BitVec.getLsbD_one]
  by_cases h : j = b
  · subst h; simp [hj]
  · have : ¬ (j - b = 0 ∧ ¬ j < b) := by omega
    by_cases hlt : j < b <;> simp_all

/-- `pixelOp` changes its own pixel and no other. -/
theorem pixelGet_pixelOp (p : Params) (c : Colour) (x y : Int) (m : Memory) {px py : Int} (h : p.onScreen px py) :
    pixelGet p px py (pixelOp p c x y m) =
      if px = x ∧ py = y then c.applyBit (pixelGet p px py m) else pixelGet p px py m := by
  unfold pixelOp
  by_cases hs : p.onScreen x y
  · rw [if_pos hs]
    simp only [pixelGet, if_pos h, Memory.read_write]
    by_cases hi : p.byteIndex px py = p.byteIndex x y
    · rw [if_pos hi, Colour.getLsbD_apply _ _ _ _ (bitIndex_lt py), getLsbD_one_shiftLeft _ _ (bitIndex_lt py), hi]
      by_cases hb : bitIndex py = bitIndex y
      · have := Params.pixel_map_inj h hs hi hb
        simp [this]
      · have : ¬(px = x ∧ py = y) := fun e => hb (by rw [e.2])
        simp [hb, this]
    · have : ¬(px = x ∧ py = y) := fun e => hi (by rw [e.1, e.2])
      rw [if_neg hi, if_neg this]
  · rw [if_neg hs, if_neg]
    rintro ⟨rfl, rfl⟩
    exact hs h

/-- `pixelOp` leaves every byte but its own. -/
theorem read_pixelOp_of_ne (p : Params) (c : Colour) (x y : Int) (m : Memory) {a : Nat}
    (h : p.onScreen x y → p.byteIndex x y ≠ a) : (pixelOp p c x y m).read a = m.read a := by
  unfold pixelOp
  split_ifs with hs
  · exact Memory.read_write_of_ne _ _ (h hs).symm
  · rfl

theorem pixelOp_of_not_onScreen (p : Params) (c : Colour) {x y : Int} (m : Memory) (h : ¬ p.onScreen x y) :
    pixelOp p c x y m = m := if_neg h

@[simp] theorem background_pixelOp (p : Params) (c : Colour) (x y : Int) (m : Memory) :
    (pixelOp p c x y m).background = m.background := by
  unfold pixelOp; split_ifs <;> rfl

theorem wf_pixelOp {p : Params} (h8 : p.height % 8 = 0) (c : Colour) (x y : Int) {m : Memory} (h : m.wf p.fbSize) :
    (pixelOp p c x y m).wf p.fbSize := by
  unfold pixelOp
  split_ifs with hs
  · exact Memory.wf_write h (Params.byteIndex_lt h8 hs) _
  · exact h

/-! ### Many pixels -/

@[simp] theorem plot_nil (p : Params) (c : Colour) (m : Memory) : plot p c [] m = m := rfl

@[simp] theorem plot_cons (p : Params) (c : Colour) (q : Int × Int) (pts : List (Int × Int)) (m : Memory) :
    plot p c (q :: pts) m = plot p c pts (pixelOp p c q.1 q.2 m) := rfl

theorem plot_append (p : Params) (c : Colour) (l₁ l₂ : List (Int × Int)) (m : Memory) :
    plot p c (l₁ ++ l₂) m = plot p c l₂ (plot p c l₁ m) := by simp [plot, List.foldl_append]

/-- Plotting different points recolours exactly those of them that are on screen. -/
theorem pixelGet_plot (p : Params) (c : Colour) {pts : List (Int × Int)} (hn : pts.Nodup) (m : Memory) {px py : Int}
    (h : p.onScreen px py) :
    pixelGet p px py (plot p c pts m) =
      if (px, py) ∈ pts then c.applyBit (pixelGet p px py m) else pixelGet p px py m := by
  induction pts generalizing m with
  | nil => simp
  | cons q pts ih =>
    obtain ⟨hq, hn⟩ := List.nodup_cons.1 hn
    rw [plot_cons, ih hn, pixelGet_pixelOp p c q.1 q.2 m h]
    by_cases hm : (px, py) ∈ pts
    · have : ¬(px = q.1 ∧ py = q.2) := by
        rintro ⟨rfl, rfl⟩; exact hq hm
      simp [hm, this]
    · by_cases he : px = q.1 ∧ py = q.2
      · have : q ∉ pts := hq
        simp [he, this]
      · have : (px, py) ≠ q := fun e => he (by simp [← e])
        simp [hm, he, this]

/-- Plotting leaves every byte that holds none of the points. -/
theorem read_plot_of_ne (p : Params) (c : Colour) (pts : List (Int × Int)) (m : Memory) {a : Nat}
    (h : ∀ q ∈ pts, p.onScreen q.1 q.2 → p.byteIndex q.1 q.2 ≠ a) : (plot p c pts m).read a = m.read a := by
  induction pts generalizing m with
  | nil => rfl
  | cons q pts ih =>
    rw [plot_cons, ih _ fun r hr => h r (List.mem_cons_of_mem _ hr)]
    exact read_pixelOp_of_ne _ _ _ _ _ (h q List.mem_cons_self)

@[simp] theorem background_plot (p : Params) (c : Colour) (pts : List (Int × Int)) (m : Memory) :
    (plot p c pts m).background = m.background := by
  induction pts generalizing m with
  | nil => rfl
  | cons q pts ih => simp [ih]

theorem wf_plot {p : Params} (h8 : p.height % 8 = 0) (c : Colour) (pts : List (Int × Int)) {m : Memory}
    (h : m.wf p.fbSize) : (plot p c pts m).wf p.fbSize := by
  induction pts generalizing m with
  | nil => exact h
  | cons q pts ih => exact ih (wf_pixelOp h8 c q.1 q.2 h)

/-! ### Column bytes -/

theorem mem_columnPoints {cx ytop : Int} {b : Byte} {q : Int × Int} :
    q ∈ columnPoints cx ytop b ↔ q.1 = cx ∧ ∃ j < 8, b.getLsbD j = true ∧ q.2 = ytop + j := by
  obtain ⟨q1, q2⟩ := q
  simp only [columnPoints, List.mem_map, List.mem_filter, List.mem_range, Prod.mk.injEq]
  constructor
  · rintro ⟨j, ⟨hj, hb⟩, rfl, rfl⟩; exact ⟨rfl, j, hj, hb, rfl⟩
  · rintro ⟨rfl, j, hj, hb, rfl⟩; exact ⟨j, ⟨hj, hb⟩, rfl, rfl⟩

theorem nodup_columnPoints (cx ytop : Int) (b : Byte) : (columnPoints cx ytop b).Nodup := by
  refine List.Nodup.map ?_ (List.nodup_range.filter _)
  intro i j h
  simpa using h

/-- The points that `blitBytes` plots, in order. -/
def blitPoints (x y : Int) (w : Nat) : Nat → List Byte → List (Int × Int)
  | _, [] => []
  | k, b :: bs =>
    columnPoints (x + ((k % w : Nat) : Int)) (y + 8 * ((k / w : Nat) : Int)) b ++ blitPoints x y w (k + 1) bs

theorem blitBytes_eq_plot (p : Params) (c : Colour) (x y : Int) (w k : Nat) (bs : List Byte) (m : Memory) :
    blitBytes p c x y w k bs m = plot p c (blitPoints x y w k bs) m := by
  induction bs generalizing k m with
  | nil => rfl
  | cons b bs ih => rw [blitBytes, blitPoints, plot_append, ih]; rfl

/-- A point of a bitmap: column `n mod w`, row `8 * (n div w) + j`, for a byte `n` whose bit `j` is 1. -/
theorem mem_blitPoints {x y : Int} {w : Nat} {q : Int × Int} {k : Nat} {bs : List Byte} :
    q ∈ blitPoints x y w k bs ↔ ∃ n < bs.length, q ∈ columnPoints (x + (((k + n) % w : Nat) : Int))
      (y + 8 * (((k + n) / w : Nat) : Int)) (bs.getD n 0) := by
  induction bs generalizing k with
  | nil => simp [blitPoints]
  | cons b bs ih =>
    rw [blitPoints, List.mem_append, ih]
    constructor
    · rintro (h | ⟨n, hn, h⟩)
      · exact ⟨0, by simp, by simpa using h⟩
      · refine ⟨n + 1, by simpa using hn, ?_⟩
        rw [show k + (n + 1) = k + 1 + n by omega]
        simpa using h
    · rintro ⟨n, hn, h⟩
      cases n with
      | zero => exact .inl (by simpa using h)
      | succ n =>
        rw [show k + (n + 1) = k + 1 + n by omega] at h
        exact .inr ⟨n, by simpa using hn, by simpa using h⟩

/-- No point is visited twice (43_bitmap_raw.md R149). -/
theorem nodup_blitPoints (x y : Int) (w k : Nat) (bs : List Byte) :
    (blitPoints x y w k bs).Nodup := by
  induction bs generalizing k with
  | nil => simp [blitPoints]
  | cons b bs ih =>
    rw [blitPoints]
    refine List.Nodup.append (nodup_columnPoints _ _ _) (ih _) ?_
    intro q hq hq'
    obtain ⟨n, hn, hq'⟩ := mem_blitPoints.1 hq'
    obtain ⟨h1, j, hj, _, h2⟩ := mem_columnPoints.1 hq
    obtain ⟨h1', j', hj', _, h2'⟩ := mem_columnPoints.1 hq'
    have hmod : k % w = (k + 1 + n) % w := by omega
    have hdiv : k / w = (k + 1 + n) / w := by omega
    have := Nat.div_add_mod k w
    have := Nat.div_add_mod (k + 1 + n) w
    rw [← hmod, ← hdiv] at this
    omega

theorem wf_blitBytes {p : Params} (h8 : p.height % 8 = 0) (c : Colour) (x y : Int) (w k : Nat) (bs : List Byte)
    {m : Memory} (h : m.wf p.fbSize) : (blitBytes p c x y w k bs m).wf p.fbSize := by
  rw [blitBytes_eq_plot]; exact wf_plot h8 c _ h

/-! ### Runs and rectangles -/

theorem mem_span {lo : Int} {n limit q : Nat} : q ∈ span lo n limit ↔ lo ≤ q ∧ (q : Int) < lo + n ∧ q < limit := by
  simp only [span, List.mem_range', one_mul]
  constructor
  · rintro ⟨i, hi, rfl⟩; omega
  · rintro ⟨h1, h2, h3⟩; exact ⟨q - lo.toNat, by omega, by omega⟩

theorem nodup_span (lo : Int) (n limit : Nat) : (span lo n limit).Nodup := List.nodup_range'

theorem mem_rectPoints {p : Params} {x y : Int} {w h : Nat} {q : Int × Int} :
    q ∈ p.rectPoints x y w h ↔
      p.onScreen q.1 q.2 ∧ (x ≤ q.1 ∧ q.1 < x + w) ∧ y ≤ q.2 ∧ q.2 < y + h := by
  obtain ⟨q1, q2⟩ := q
  simp only [Params.rectPoints, List.mem_flatMap, List.mem_map, mem_span, Prod.mk.injEq]
  constructor
  · rintro ⟨i, hi, j, hj, rfl, rfl⟩; unfold Params.onScreen; omega
  · rintro ⟨⟨⟨h1, h2⟩, h3, h4⟩, hx, hy⟩
    exact ⟨q1.toNat, by omega, q2.toNat, by omega, by omega, by omega⟩

theorem nodup_rectPoints (p : Params) (x y : Int) (w h : Nat) : (p.rectPoints x y w h).Nodup := by
  refine List.nodup_flatMap.2 ⟨fun i _ => (nodup_span _ _ _).map fun a b e => by simpa using e, ?_⟩
  refine (nodup_span _ _ _).imp ?_
  intro i j hne q hq hq'
  simp only [List.mem_map] at hq hq'
  obtain ⟨_, _, rfl⟩ := hq
  obtain ⟨_, _, h⟩ := hq'
  exact hne (by simpa using (congrArg Prod.fst h).symm)

theorem mem_hlinePoints {p : Params} {x y : Int} {w : Nat} {q : Int × Int} :
    q ∈ p.hlinePoints x y w ↔ q.2 = y ∧ (x ≤ q.1 ∧ q.1 < x + w) ∧ 0 ≤ q.1 ∧ q.1 < p.width := by
  obtain ⟨q1, q2⟩ := q
  simp only [Params.hlinePoints, List.mem_map, mem_span, Prod.mk.injEq]
  constructor
  · rintro ⟨i, hi, rfl, rfl⟩; omega
  · rintro ⟨rfl, h⟩; exact ⟨q1.toNat, by omega, by omega, rfl⟩

theorem nodup_hlinePoints (p : Params) (x y : Int) (w : Nat) : (p.hlinePoints x y w).Nodup :=
  (nodup_span _ _ _).map fun a b e => by simpa using e

theorem mem_vlinePoints {p : Params} {x y : Int} {h : Nat} {q : Int × Int} :
    q ∈ p.vlinePoints x y h ↔ q.1 = x ∧ (y ≤ q.2 ∧ q.2 < y + h) ∧ 0 ≤ q.2 ∧ q.2 < p.height := by
  obtain ⟨q1, q2⟩ := q
  simp only [Params.vlinePoints, List.mem_map, mem_span, Prod.mk.injEq]
  constructor
  · rintro ⟨i, hi, rfl, rfl⟩; omega
  · rintro ⟨rfl, h⟩; exact ⟨q2.toNat, by omega, rfl, by omega⟩

theorem nodup_vlinePoints (p : Params) (x y : Int) (h : Nat) : (p.vlinePoints x y h).Nodup :=
  (nodup_span _ _ _).map fun a b e => by simpa using e

end Sys2Proof
end

