-- ==== Sys2Proof/Laws/State.lean ====
section
/-!
SUPPORT. What each named update of a state leaves in each field, one lemma a field, all true by definition, so that no later
proof unfolds a record update; and how the buffers read after one.
-/

namespace Sys2Proof.Machine

variable (s : State) (k : BufIdx) (m : Memory) (f : Memory → Memory) (e : ErrorKind) (v : Word) (o : Output) (w : CommandWord)

/-! ### `State.setBuf` -/

@[simp] theorem State.setBuf_params : (s.setBuf k m).params = s.params := rfl
@[simp] theorem State.setBuf_fb0 : (s.setBuf k m).fb0 = if k = .fb0 then m else s.fb0 := rfl
@[simp] theorem State.setBuf_fb1 : (s.setBuf k m).fb1 = if k = .fb1 then m else s.fb1 := rfl
@[simp] theorem State.setBuf_active : (s.setBuf k m).active = s.active := rfl
@[simp] theorem State.setBuf_mode : (s.setBuf k m).mode = s.mode := rfl
@[simp] theorem State.setBuf_sinkBusy : (s.setBuf k m).sinkBusy = s.sinkBusy := rfl
@[simp] theorem State.setBuf_sinkBuf : (s.setBuf k m).sinkBuf = s.sinkBuf := rfl
@[simp] theorem State.setBuf_cur : (s.setBuf k m).cur = s.cur := rfl
@[simp] theorem State.setBuf_execBit : (s.setBuf k m).execBit = s.execBit := rfl
@[simp] theorem State.setBuf_phase : (s.setBuf k m).phase = s.phase := rfl
@[simp] theorem State.setBuf_errIllegal : (s.setBuf k m).errIllegal = s.errIllegal := rfl
@[simp] theorem State.setBuf_errAlloc : (s.setBuf k m).errAlloc = s.errAlloc := rfl
@[simp] theorem State.setBuf_errStream : (s.setBuf k m).errStream = s.errStream := rfl
@[simp] theorem State.setBuf_errAsset : (s.setBuf k m).errAsset = s.errAsset := rfl
@[simp] theorem State.setBuf_result : (s.setBuf k m).result = s.result := rfl
@[simp] theorem State.setBuf_rle : (s.setBuf k m).rle = s.rle := rfl
@[simp] theorem State.setBuf_eachMs : (s.setBuf k m).eachMs = s.eachMs := rfl
@[simp] theorem State.setBuf_nextStart : (s.setBuf k m).nextStart = s.nextStart := rfl
@[simp] theorem State.setBuf_lastStart : (s.setBuf k m).lastStart = s.lastStart := rfl
@[simp] theorem State.setBuf_lastDur : (s.setBuf k m).lastDur = s.lastDur := rfl
@[simp] theorem State.setBuf_frameCount : (s.setBuf k m).frameCount = s.frameCount := rfl
@[simp] theorem State.setBuf_justRendered : (s.setBuf k m).justRendered = s.justRendered := rfl
@[simp] theorem State.setBuf_clkMs : (s.setBuf k m).clkMs = s.clkMs := rfl
@[simp] theorem State.setBuf_host : (s.setBuf k m).host = s.host := rfl
@[simp] theorem State.setBuf_turns : (s.setBuf k m).turns = s.turns := rfl
@[simp] theorem State.setBuf_out : (s.setBuf k m).out = s.out := rfl
@[simp] theorem State.setBuf_freeCount : (s.setBuf k m).freeCount = s.freeCount := rfl

/-! ### `State.draw` -/

@[simp] theorem State.draw_params : (s.draw f).params = s.params := rfl
@[simp] theorem State.draw_active : (s.draw f).active = s.active := rfl
@[simp] theorem State.draw_mode : (s.draw f).mode = s.mode := rfl
@[simp] theorem State.draw_sinkBusy : (s.draw f).sinkBusy = s.sinkBusy := rfl
@[simp] theorem State.draw_sinkBuf : (s.draw f).sinkBuf = s.sinkBuf := rfl
@[simp] theorem State.draw_cur : (s.draw f).cur = s.cur := rfl
@[simp] theorem State.draw_execBit : (s.draw f).execBit = s.execBit := rfl
@[simp] theorem State.draw_phase : (s.draw f).phase = s.phase := rfl
@[simp] theorem State.draw_errIllegal : (s.draw f).errIllegal = s.errIllegal := rfl
@[simp] theorem State.draw_errAlloc : (s.draw f).errAlloc = s.errAlloc := rfl
@[simp] theorem State.draw_errStream : (s.draw f).errStream = s.errStream := rfl
@[simp] theorem State.draw_errAsset : (s.draw f).errAsset = s.errAsset := rfl
@[simp] theorem State.draw_result : (s.draw f).result = s.result := rfl
@[simp] theorem State.draw_rle : (s.draw f).rle = s.rle := rfl
@[simp] theorem State.draw_eachMs : (s.draw f).eachMs = s.eachMs := rfl
@[simp] theorem State.draw_nextStart : (s.draw f).nextStart = s.nextStart := rfl
@[simp] theorem State.draw_lastStart : (s.draw f).lastStart = s.lastStart := rfl
@[simp] theorem State.draw_lastDur : (s.draw f).lastDur = s.lastDur := rfl
@[simp] theorem State.draw_frameCount : (s.draw f).frameCount = s.frameCount := rfl
@[simp] theorem State.draw_justRendered : (s.draw f).justRendered = s.justRendered := rfl
@[simp] theorem State.draw_clkMs : (s.draw f).clkMs = s.clkMs := rfl
@[simp] theorem State.draw_host : (s.draw f).host = s.host := rfl
@[simp] theorem State.draw_turns : (s.draw f).turns = s.turns := rfl
@[simp] theorem State.draw_out : (s.draw f).out = s.out := rfl
@[simp] theorem State.draw_freeCount : (s.draw f).freeCount = s.freeCount := rfl

/-! ### `State.spoil` -/

@[simp] theorem State.spoil_params : (s.spoil).params = s.params := rfl
@[simp] theorem State.spoil_active : (s.spoil).active = s.active := rfl
@[simp] theorem State.spoil_mode : (s.spoil).mode = s.mode := rfl
@[simp] theorem State.spoil_sinkBusy : (s.spoil).sinkBusy = s.sinkBusy := rfl
@[simp] theorem State.spoil_sinkBuf : (s.spoil).sinkBuf = s.sinkBuf := rfl
@[simp] theorem State.spoil_cur : (s.spoil).cur = s.cur := rfl
@[simp] theorem State.spoil_execBit : (s.spoil).execBit = s.execBit := rfl
@[simp] theorem State.spoil_phase : (s.spoil).phase = s.phase := rfl
@[simp] theorem State.spoil_errIllegal : (s.spoil).errIllegal = s.errIllegal := rfl
@[simp] theorem State.spoil_errAlloc : (s.spoil).errAlloc = s.errAlloc := rfl
@[simp] theorem State.spoil_errStream : (s.spoil).errStream = s.errStream := rfl
@[simp] theorem State.spoil_errAsset : (s.spoil).errAsset = s.errAsset := rfl
@[simp] theorem State.spoil_result : (s.spoil).result = s.result := rfl
@[simp] theorem State.spoil_rle : (s.spoil).rle = s.rle := rfl
@[simp] theorem State.spoil_eachMs : (s.spoil).eachMs = s.eachMs := rfl
@[simp] theorem State.spoil_nextStart : (s.spoil).nextStart = s.nextStart := rfl
@[simp] theorem State.spoil_lastStart : (s.spoil).lastStart = s.lastStart := rfl
@[simp] theorem State.spoil_lastDur : (s.spoil).lastDur = s.lastDur := rfl
@[simp] theorem State.spoil_frameCount : (s.spoil).frameCount = s.frameCount := rfl
@[simp] theorem State.spoil_justRendered : (s.spoil).justRendered = s.justRendered := rfl
@[simp] theorem State.spoil_clkMs : (s.spoil).clkMs = s.clkMs := rfl
@[simp] theorem State.spoil_host : (s.spoil).host = s.host := rfl
@[simp] theorem State.spoil_turns : (s.spoil).turns = s.turns := rfl
@[simp] theorem State.spoil_out : (s.spoil).out = s.out := rfl
@[simp] theorem State.spoil_freeCount : (s.spoil).freeCount = s.freeCount + 1 := rfl

/-! ### `State.finish` -/

@[simp] theorem State.finish_params : (s.finish).params = s.params := rfl
@[simp] theorem State.finish_fb0 : (s.finish).fb0 = s.fb0 := rfl
@[simp] theorem State.finish_fb1 : (s.finish).fb1 = s.fb1 := rfl
@[simp] theorem State.finish_active : (s.finish).active = s.active := rfl
@[simp] theorem State.finish_mode : (s.finish).mode = s.mode := rfl
@[simp] theorem State.finish_sinkBusy : (s.finish).sinkBusy = s.sinkBusy := rfl
@[simp] theorem State.finish_sinkBuf : (s.finish).sinkBuf = s.sinkBuf := rfl
@[simp] theorem State.finish_cur : (s.finish).cur = s.cur := rfl
@[simp] theorem State.finish_execBit : (s.finish).execBit = false := rfl
@[simp] theorem State.finish_phase : (s.finish).phase = s.phase := rfl
@[simp] theorem State.finish_errIllegal : (s.finish).errIllegal = s.errIllegal := rfl
@[simp] theorem State.finish_errAlloc : (s.finish).errAlloc = s.errAlloc := rfl
@[simp] theorem State.finish_errStream : (s.finish).errStream = s.errStream := rfl
@[simp] theorem State.finish_errAsset : (s.finish).errAsset = s.errAsset := rfl
@[simp] theorem State.finish_result : (s.finish).result = s.result := rfl
@[simp] theorem State.finish_rle : (s.finish).rle = s.rle := rfl
@[simp] theorem State.finish_eachMs : (s.finish).eachMs = s.eachMs := rfl
@[simp] theorem State.finish_nextStart : (s.finish).nextStart = s.nextStart := rfl
@[simp] theorem State.finish_lastStart : (s.finish).lastStart = s.lastStart := rfl
@[simp] theorem State.finish_lastDur : (s.finish).lastDur = s.lastDur := rfl
@[simp] theorem State.finish_frameCount : (s.finish).frameCount = s.frameCount := rfl
@[simp] theorem State.finish_justRendered : (s.finish).justRendered = s.justRendered := rfl
@[simp] theorem State.finish_clkMs : (s.finish).clkMs = s.clkMs := rfl
@[simp] theorem State.finish_host : (s.finish).host = s.host := rfl
@[simp] theorem State.finish_turns : (s.finish).turns = s.turns := rfl
@[simp] theorem State.finish_out : (s.finish).out = s.out := rfl
@[simp] theorem State.finish_freeCount : (s.finish).freeCount = s.freeCount := rfl

/-! ### `State.raise` -/

@[simp] theorem State.raise_params : (s.raise e).params = s.params := rfl
@[simp] theorem State.raise_fb0 : (s.raise e).fb0 = s.fb0 := rfl
@[simp] theorem State.raise_fb1 : (s.raise e).fb1 = s.fb1 := rfl
@[simp] theorem State.raise_active : (s.raise e).active = s.active := rfl
@[simp] theorem State.raise_mode : (s.raise e).mode = s.mode := rfl
@[simp] theorem State.raise_sinkBusy : (s.raise e).sinkBusy = s.sinkBusy := rfl
@[simp] theorem State.raise_sinkBuf : (s.raise e).sinkBuf = s.sinkBuf := rfl
@[simp] theorem State.raise_cur : (s.raise e).cur = s.cur := rfl
@[simp] theorem State.raise_execBit : (s.raise e).execBit = false := rfl
@[simp] theorem State.raise_phase : (s.raise e).phase = s.phase := rfl
@[simp] theorem State.raise_errIllegal : (s.raise e).errIllegal = (s.errIllegal || decide (e = .illegal)) := rfl
@[simp] theorem State.raise_errAlloc : (s.raise e).errAlloc = (s.errAlloc || decide (e = .alloc)) := rfl
@[simp] theorem State.raise_errStream : (s.raise e).errStream = (s.errStream || decide (e = .stream)) := rfl
@[simp] theorem State.raise_errAsset : (s.raise e).errAsset = (s.errAsset || decide (e = .asset)) := rfl
@[simp] theorem State.raise_result : (s.raise e).result = s.result := rfl
@[simp] theorem State.raise_rle : (s.raise e).rle = s.rle := rfl
@[simp] theorem State.raise_eachMs : (s.raise e).eachMs = s.eachMs := rfl
@[simp] theorem State.raise_nextStart : (s.raise e).nextStart = s.nextStart := rfl
@[simp] theorem State.raise_lastStart : (s.raise e).lastStart = s.lastStart := rfl
@[simp] theorem State.raise_lastDur : (s.raise e).lastDur = s.lastDur := rfl
@[simp] theorem State.raise_frameCount : (s.raise e).frameCount = s.frameCount := rfl
@[simp] theorem State.raise_justRendered : (s.raise e).justRendered = s.justRendered := rfl
@[simp] theorem State.raise_clkMs : (s.raise e).clkMs = s.clkMs := rfl
@[simp] theorem State.raise_host : (s.raise e).host = s.host := rfl
@[simp] theorem State.raise_turns : (s.raise e).turns = s.turns := rfl
@[simp] theorem State.raise_out : (s.raise e).out = s.out := rfl
@[simp] theorem State.raise_freeCount : (s.raise e).freeCount = s.freeCount := rfl

/-! ### `State.answer` -/

@[simp] theorem State.answer_params : (s.answer v).params = s.params := rfl
@[simp] theorem State.answer_fb0 : (s.answer v).fb0 = s.fb0 := rfl
@[simp] theorem State.answer_fb1 : (s.answer v).fb1 = s.fb1 := rfl
@[simp] theorem State.answer_active : (s.answer v).active = s.active := rfl
@[simp] theorem State.answer_mode : (s.answer v).mode = s.mode := rfl
@[simp] theorem State.answer_sinkBusy : (s.answer v).sinkBusy = s.sinkBusy := rfl
@[simp] theorem State.answer_sinkBuf : (s.answer v).sinkBuf = s.sinkBuf := rfl
@[simp] theorem State.answer_cur : (s.answer v).cur = s.cur := rfl
@[simp] theorem State.answer_execBit : (s.answer v).execBit = false := rfl
@[simp] theorem State.answer_phase : (s.answer v).phase = s.phase := rfl
@[simp] theorem State.answer_errIllegal : (s.answer v).errIllegal = s.errIllegal := rfl
@[simp] theorem State.answer_errAlloc : (s.answer v).errAlloc = s.errAlloc := rfl
@[simp] theorem State.answer_errStream : (s.answer v).errStream = s.errStream := rfl
@[simp] theorem State.answer_errAsset : (s.answer v).errAsset = s.errAsset := rfl
@[simp] theorem State.answer_result : (s.answer v).result = v := rfl
@[simp] theorem State.answer_rle : (s.answer v).rle = s.rle := rfl
@[simp] theorem State.answer_eachMs : (s.answer v).eachMs = s.eachMs := rfl
@[simp] theorem State.answer_nextStart : (s.answer v).nextStart = s.nextStart := rfl
@[simp] theorem State.answer_lastStart : (s.answer v).lastStart = s.lastStart := rfl
@[simp] theorem State.answer_lastDur : (s.answer v).lastDur = s.lastDur := rfl
@[simp] theorem State.answer_frameCount : (s.answer v).frameCount = s.frameCount := rfl
@[simp] theorem State.answer_justRendered : (s.answer v).justRendered = s.justRendered := rfl
@[simp] theorem State.answer_clkMs : (s.answer v).clkMs = s.clkMs := rfl
@[simp] theorem State.answer_host : (s.answer v).host = s.host := rfl
@[simp] theorem State.answer_turns : (s.answer v).turns = s.turns := rfl
@[simp] theorem State.answer_out : (s.answer v).out = s.out := rfl
@[simp] theorem State.answer_freeCount : (s.answer v).freeCount = s.freeCount := rfl

/-! ### `State.emit` -/

@[simp] theorem State.emit_params : (s.emit o).params = s.params := rfl
@[simp] theorem State.emit_fb0 : (s.emit o).fb0 = s.fb0 := rfl
@[simp] theorem State.emit_fb1 : (s.emit o).fb1 = s.fb1 := rfl
@[simp] theorem State.emit_active : (s.emit o).active = s.active := rfl
@[simp] theorem State.emit_mode : (s.emit o).mode = s.mode := rfl
@[simp] theorem State.emit_sinkBusy : (s.emit o).sinkBusy = s.sinkBusy := rfl
@[simp] theorem State.emit_sinkBuf : (s.emit o).sinkBuf = s.sinkBuf := rfl
@[simp] theorem State.emit_cur : (s.emit o).cur = s.cur := rfl
@[simp] theorem State.emit_execBit : (s.emit o).execBit = s.execBit := rfl
@[simp] theorem State.emit_phase : (s.emit o).phase = s.phase := rfl
@[simp] theorem State.emit_errIllegal : (s.emit o).errIllegal = s.errIllegal := rfl
@[simp] theorem State.emit_errAlloc : (s.emit o).errAlloc = s.errAlloc := rfl
@[simp] theorem State.emit_errStream : (s.emit o).errStream = s.errStream := rfl
@[simp] theorem State.emit_errAsset : (s.emit o).errAsset = s.errAsset := rfl
@[simp] theorem State.emit_result : (s.emit o).result = s.result := rfl
@[simp] theorem State.emit_rle : (s.emit o).rle = s.rle := rfl
@[simp] theorem State.emit_eachMs : (s.emit o).eachMs = s.eachMs := rfl
@[simp] theorem State.emit_nextStart : (s.emit o).nextStart = s.nextStart := rfl
@[simp] theorem State.emit_lastStart : (s.emit o).lastStart = s.lastStart := rfl
@[simp] theorem State.emit_lastDur : (s.emit o).lastDur = s.lastDur := rfl
@[simp] theorem State.emit_frameCount : (s.emit o).frameCount = s.frameCount := rfl
@[simp] theorem State.emit_justRendered : (s.emit o).justRendered = s.justRendered := rfl
@[simp] theorem State.emit_clkMs : (s.emit o).clkMs = s.clkMs := rfl
@[simp] theorem State.emit_host : (s.emit o).host = s.host := rfl
@[simp] theorem State.emit_turns : (s.emit o).turns = s.turns := rfl
@[simp] theorem State.emit_out : (s.emit o).out = s.out ++ [o] := rfl
@[simp] theorem State.emit_freeCount : (s.emit o).freeCount = s.freeCount := rfl

/-! ### `State.handOff` -/

@[simp] theorem State.handOff_params : (s.handOff k).params = s.params := rfl
@[simp] theorem State.handOff_fb0 : (s.handOff k).fb0 = s.fb0 := rfl
@[simp] theorem State.handOff_fb1 : (s.handOff k).fb1 = s.fb1 := rfl
@[simp] theorem State.handOff_active : (s.handOff k).active = s.active := rfl
@[simp] theorem State.handOff_mode : (s.handOff k).mode = s.mode := rfl
@[simp] theorem State.handOff_sinkBusy : (s.handOff k).sinkBusy = true := rfl
@[simp] theorem State.handOff_sinkBuf : (s.handOff k).sinkBuf = k := rfl
@[simp] theorem State.handOff_cur : (s.handOff k).cur = s.cur := rfl
@[simp] theorem State.handOff_execBit : (s.handOff k).execBit = s.execBit := rfl
@[simp] theorem State.handOff_phase : (s.handOff k).phase = s.phase := rfl
@[simp] theorem State.handOff_errIllegal : (s.handOff k).errIllegal = s.errIllegal := rfl
@[simp] theorem State.handOff_errAlloc : (s.handOff k).errAlloc = s.errAlloc := rfl
@[simp] theorem State.handOff_errStream : (s.handOff k).errStream = s.errStream := rfl
@[simp] theorem State.handOff_errAsset : (s.handOff k).errAsset = s.errAsset := rfl
@[simp] theorem State.handOff_result : (s.handOff k).result = s.result := rfl
@[simp] theorem State.handOff_rle : (s.handOff k).rle = s.rle := rfl
@[simp] theorem State.handOff_eachMs : (s.handOff k).eachMs = s.eachMs := rfl
@[simp] theorem State.handOff_nextStart : (s.handOff k).nextStart = s.nextStart := rfl
@[simp] theorem State.handOff_lastStart : (s.handOff k).lastStart = s.lastStart := rfl
@[simp] theorem State.handOff_lastDur : (s.handOff k).lastDur = s.lastDur := rfl
@[simp] theorem State.handOff_frameCount : (s.handOff k).frameCount = s.frameCount := rfl
@[simp] theorem State.handOff_justRendered : (s.handOff k).justRendered = s.justRendered := rfl
@[simp] theorem State.handOff_clkMs : (s.handOff k).clkMs = s.clkMs := rfl
@[simp] theorem State.handOff_host : (s.handOff k).host = s.host := rfl
@[simp] theorem State.handOff_turns : (s.handOff k).turns = s.turns := rfl
@[simp] theorem State.handOff_out : (s.handOff k).out = s.out ++ [.paintScreen k ((s.buf k).bytes s.params.fbSize)] := rfl
@[simp] theorem State.handOff_freeCount : (s.handOff k).freeCount = s.freeCount := rfl

/-! ### `State.drawn` -/

@[simp] theorem State.drawn_params : (s.drawn f).params = s.params := rfl
@[simp] theorem State.drawn_active : (s.drawn f).active = s.active := rfl
@[simp] theorem State.drawn_mode : (s.drawn f).mode = s.mode := rfl
@[simp] theorem State.drawn_sinkBusy : (s.drawn f).sinkBusy = s.sinkBusy := rfl
@[simp] theorem State.drawn_sinkBuf : (s.drawn f).sinkBuf = s.sinkBuf := rfl
@[simp] theorem State.drawn_cur : (s.drawn f).cur = s.cur := rfl
@[simp] theorem State.drawn_execBit : (s.drawn f).execBit = false := rfl
@[simp] theorem State.drawn_phase : (s.drawn f).phase = s.phase := rfl
@[simp] theorem State.drawn_errIllegal : (s.drawn f).errIllegal = s.errIllegal := rfl
@[simp] theorem State.drawn_errAlloc : (s.drawn f).errAlloc = s.errAlloc := rfl
@[simp] theorem State.drawn_errStream : (s.drawn f).errStream = s.errStream := rfl
@[simp] theorem State.drawn_errAsset : (s.drawn f).errAsset = s.errAsset := rfl
@[simp] theorem State.drawn_result : (s.drawn f).result = s.result := rfl
@[simp] theorem State.drawn_rle : (s.drawn f).rle = s.rle := rfl
@[simp] theorem State.drawn_eachMs : (s.drawn f).eachMs = s.eachMs := rfl
@[simp] theorem State.drawn_nextStart : (s.drawn f).nextStart = s.nextStart := rfl
@[simp] theorem State.drawn_lastStart : (s.drawn f).lastStart = s.lastStart := rfl
@[simp] theorem State.drawn_lastDur : (s.drawn f).lastDur = s.lastDur := rfl
@[simp] theorem State.drawn_frameCount : (s.drawn f).frameCount = s.frameCount := rfl
@[simp] theorem State.drawn_justRendered : (s.drawn f).justRendered = s.justRendered := rfl
@[simp] theorem State.drawn_clkMs : (s.drawn f).clkMs = s.clkMs := rfl
@[simp] theorem State.drawn_host : (s.drawn f).host = s.host := rfl
@[simp] theorem State.drawn_turns : (s.drawn f).turns = s.turns := rfl
@[simp] theorem State.drawn_out : (s.drawn f).out = s.out := rfl
@[simp] theorem State.drawn_freeCount : (s.drawn f).freeCount = s.freeCount := rfl

/-! ### `State.sinkDone` -/

@[simp] theorem State.sinkDone_params : (s.sinkDone).params = s.params := rfl
@[simp] theorem State.sinkDone_fb0 : (s.sinkDone).fb0 = s.fb0 := rfl
@[simp] theorem State.sinkDone_fb1 : (s.sinkDone).fb1 = s.fb1 := rfl
@[simp] theorem State.sinkDone_active : (s.sinkDone).active = s.active := rfl
@[simp] theorem State.sinkDone_mode : (s.sinkDone).mode = s.mode := rfl
@[simp] theorem State.sinkDone_sinkBusy : (s.sinkDone).sinkBusy = false := rfl
@[simp] theorem State.sinkDone_sinkBuf : (s.sinkDone).sinkBuf = s.sinkBuf := rfl
@[simp] theorem State.sinkDone_cur : (s.sinkDone).cur = s.cur := rfl
@[simp] theorem State.sinkDone_execBit : (s.sinkDone).execBit = s.execBit := rfl
@[simp] theorem State.sinkDone_phase : (s.sinkDone).phase = s.phase := rfl
@[simp] theorem State.sinkDone_errIllegal : (s.sinkDone).errIllegal = s.errIllegal := rfl
@[simp] theorem State.sinkDone_errAlloc : (s.sinkDone).errAlloc = s.errAlloc := rfl
@[simp] theorem State.sinkDone_errStream : (s.sinkDone).errStream = s.errStream := rfl
@[simp] theorem State.sinkDone_errAsset : (s.sinkDone).errAsset = s.errAsset := rfl
@[simp] theorem State.sinkDone_result : (s.sinkDone).result = s.result := rfl
@[simp] theorem State.sinkDone_rle : (s.sinkDone).rle = s.rle := rfl
@[simp] theorem State.sinkDone_eachMs : (s.sinkDone).eachMs = s.eachMs := rfl
@[simp] theorem State.sinkDone_nextStart : (s.sinkDone).nextStart = s.nextStart := rfl
@[simp] theorem State.sinkDone_lastStart : (s.sinkDone).lastStart = s.lastStart := rfl
@[simp] theorem State.sinkDone_lastDur : (s.sinkDone).lastDur = s.lastDur := rfl
@[simp] theorem State.sinkDone_frameCount : (s.sinkDone).frameCount = s.frameCount := rfl
@[simp] theorem State.sinkDone_justRendered : (s.sinkDone).justRendered = s.justRendered := rfl
@[simp] theorem State.sinkDone_clkMs : (s.sinkDone).clkMs = s.clkMs := rfl
@[simp] theorem State.sinkDone_host : (s.sinkDone).host = s.host := rfl
@[simp] theorem State.sinkDone_turns : (s.sinkDone).turns = s.turns := rfl
@[simp] theorem State.sinkDone_out : (s.sinkDone).out = s.out := rfl
@[simp] theorem State.sinkDone_freeCount : (s.sinkDone).freeCount = s.freeCount := rfl

/-! ### `State.issue` -/

@[simp] theorem State.issue_params : (s.issue w).params = s.params := rfl
@[simp] theorem State.issue_fb0 : (s.issue w).fb0 = s.fb0 := rfl
@[simp] theorem State.issue_fb1 : (s.issue w).fb1 = s.fb1 := rfl
@[simp] theorem State.issue_active : (s.issue w).active = s.active := rfl
@[simp] theorem State.issue_mode : (s.issue w).mode = s.mode := rfl
@[simp] theorem State.issue_sinkBusy : (s.issue w).sinkBusy = s.sinkBusy := rfl
@[simp] theorem State.issue_sinkBuf : (s.issue w).sinkBuf = s.sinkBuf := rfl
@[simp] theorem State.issue_cur : (s.issue w).cur = w := rfl
@[simp] theorem State.issue_execBit : (s.issue w).execBit = true := rfl
@[simp] theorem State.issue_phase : (s.issue w).phase = false := rfl
@[simp] theorem State.issue_errIllegal : (s.issue w).errIllegal = s.errIllegal := rfl
@[simp] theorem State.issue_errAlloc : (s.issue w).errAlloc = s.errAlloc := rfl
@[simp] theorem State.issue_errStream : (s.issue w).errStream = s.errStream := rfl
@[simp] theorem State.issue_errAsset : (s.issue w).errAsset = s.errAsset := rfl
@[simp] theorem State.issue_result : (s.issue w).result = s.result := rfl
@[simp] theorem State.issue_rle : (s.issue w).rle = s.rle := rfl
@[simp] theorem State.issue_eachMs : (s.issue w).eachMs = s.eachMs := rfl
@[simp] theorem State.issue_nextStart : (s.issue w).nextStart = s.nextStart := rfl
@[simp] theorem State.issue_lastStart : (s.issue w).lastStart = s.lastStart := rfl
@[simp] theorem State.issue_lastDur : (s.issue w).lastDur = s.lastDur := rfl
@[simp] theorem State.issue_frameCount : (s.issue w).frameCount = s.frameCount := rfl
@[simp] theorem State.issue_justRendered : (s.issue w).justRendered = s.justRendered := rfl
@[simp] theorem State.issue_clkMs : (s.issue w).clkMs = s.clkMs := rfl
@[simp] theorem State.issue_host : (s.issue w).host = s.host := rfl
@[simp] theorem State.issue_turns : (s.issue w).turns = s.turns := rfl
@[simp] theorem State.issue_out : (s.issue w).out = s.out := rfl
@[simp] theorem State.issue_freeCount : (s.issue w).freeCount = s.freeCount := rfl

/-! ### `State.placed` -/

@[simp] theorem State.placed_params : (s.placed w).params =
    { s.params with hasPacer := s.params.hasPacer || w.needsPacer } := rfl
@[simp] theorem State.placed_fb0 : (s.placed w).fb0 = s.fb0 := rfl
@[simp] theorem State.placed_fb1 : (s.placed w).fb1 = s.fb1 := rfl
@[simp] theorem State.placed_active : (s.placed w).active = s.active := rfl
@[simp] theorem State.placed_mode : (s.placed w).mode = s.mode := rfl
@[simp] theorem State.placed_sinkBusy : (s.placed w).sinkBusy = s.sinkBusy := rfl
@[simp] theorem State.placed_sinkBuf : (s.placed w).sinkBuf = s.sinkBuf := rfl
@[simp] theorem State.placed_cur : (s.placed w).cur = w := rfl
@[simp] theorem State.placed_execBit : (s.placed w).execBit = true := rfl
@[simp] theorem State.placed_phase : (s.placed w).phase = false := rfl
@[simp] theorem State.placed_errIllegal : (s.placed w).errIllegal = s.errIllegal := rfl
@[simp] theorem State.placed_errAlloc : (s.placed w).errAlloc = s.errAlloc := rfl
@[simp] theorem State.placed_errStream : (s.placed w).errStream = s.errStream := rfl
@[simp] theorem State.placed_errAsset : (s.placed w).errAsset = s.errAsset := rfl
@[simp] theorem State.placed_result : (s.placed w).result = s.result := rfl
@[simp] theorem State.placed_rle : (s.placed w).rle = s.rle := rfl
@[simp] theorem State.placed_eachMs : (s.placed w).eachMs = s.eachMs := rfl
@[simp] theorem State.placed_nextStart : (s.placed w).nextStart = s.nextStart := rfl
@[simp] theorem State.placed_lastStart : (s.placed w).lastStart = s.lastStart := rfl
@[simp] theorem State.placed_lastDur : (s.placed w).lastDur = s.lastDur := rfl
@[simp] theorem State.placed_frameCount : (s.placed w).frameCount = s.frameCount := rfl
@[simp] theorem State.placed_justRendered : (s.placed w).justRendered = s.justRendered := rfl
@[simp] theorem State.placed_clkMs : (s.placed w).clkMs = s.clkMs := rfl
@[simp] theorem State.placed_host : (s.placed w).host = s.host := rfl
@[simp] theorem State.placed_turns : (s.placed w).turns = .core :: s.turns := rfl
@[simp] theorem State.placed_out : (s.placed w).out = s.out := rfl
@[simp] theorem State.placed_freeCount : (s.placed w).freeCount = s.freeCount := rfl

/-! ### `State.resetEvent` -/

@[simp] theorem State.resetEvent_params : s.resetEvent.params = s.params := rfl
@[simp] theorem State.resetEvent_fb0 : s.resetEvent.fb0 = unspecified s.freeCount := rfl
@[simp] theorem State.resetEvent_fb1 : s.resetEvent.fb1 = unspecified (s.freeCount + 1) := rfl
@[simp] theorem State.resetEvent_active : s.resetEvent.active = .fb0 := rfl
@[simp] theorem State.resetEvent_mode : s.resetEvent.mode = .singleBuffer := rfl
@[simp] theorem State.resetEvent_sinkBusy : s.resetEvent.sinkBusy = false := rfl
@[simp] theorem State.resetEvent_sinkBuf : s.resetEvent.sinkBuf = .fb0 := rfl
@[simp] theorem State.resetEvent_cur : s.resetEvent.cur = 0 := rfl
@[simp] theorem State.resetEvent_execBit : s.resetEvent.execBit = false := rfl
@[simp] theorem State.resetEvent_phase : s.resetEvent.phase = false := rfl
@[simp] theorem State.resetEvent_errIllegal : s.resetEvent.errIllegal = false := rfl
@[simp] theorem State.resetEvent_errAlloc : s.resetEvent.errAlloc = false := rfl
@[simp] theorem State.resetEvent_errStream : s.resetEvent.errStream = false := rfl
@[simp] theorem State.resetEvent_errAsset : s.resetEvent.errAsset = false := rfl
@[simp] theorem State.resetEvent_result : s.resetEvent.result = 0 := rfl
@[simp] theorem State.resetEvent_eachMs : s.resetEvent.eachMs = BitVec.ofNat 32 (1000 / s.params.defaultRate) := rfl
@[simp] theorem State.resetEvent_nextStart : s.resetEvent.nextStart = 0 := rfl
@[simp] theorem State.resetEvent_lastStart : s.resetEvent.lastStart = 0 := rfl
@[simp] theorem State.resetEvent_lastDur : s.resetEvent.lastDur = 0 := rfl
@[simp] theorem State.resetEvent_frameCount : s.resetEvent.frameCount = 0xFFFFFFFF := rfl
@[simp] theorem State.resetEvent_justRendered : s.resetEvent.justRendered = false := rfl
@[simp] theorem State.resetEvent_clkMs : s.resetEvent.clkMs = s.clkMs := rfl
@[simp] theorem State.resetEvent_host : s.resetEvent.host = s.host := rfl
@[simp] theorem State.resetEvent_turns : s.resetEvent.turns = s.turns := rfl
@[simp] theorem State.resetEvent_out : s.resetEvent.out = s.out := rfl
@[simp] theorem State.resetEvent_freeCount : s.resetEvent.freeCount = s.freeCount + 2 := rfl

/-! ### The buffers after an update -/

@[simp] theorem BufIdx.other_other : k.other.other = k := by cases k <;> rfl
@[simp] theorem BufIdx.other_ne : k.other ≠ k := by cases k <;> decide
@[simp] theorem BufIdx.ne_other : k ≠ k.other := by cases k <;> decide

theorem BufIdx.eq_other_of_ne {j k : BufIdx} (h : j ≠ k) : j = k.other := by
  cases j <;> cases k <;> first | rfl | exact absurd rfl h

@[simp] theorem State.buf_setBuf_self : (s.setBuf k m).buf k = m := by cases k <;> simp [State.buf]
@[simp] theorem State.buf_setBuf_other : (s.setBuf k m).buf k.other = s.buf k.other := by
  cases k <;> simp [State.buf, BufIdx.other]
theorem State.buf_setBuf_ne {j : BufIdx} (h : j ≠ k) : (s.setBuf k m).buf j = s.buf j := by
  rw [BufIdx.eq_other_of_ne h]; simp

@[simp] theorem State.buf_draw_active : (s.draw f).buf s.active = f (s.buf s.active) := State.buf_setBuf_self s s.active _
@[simp] theorem State.buf_draw_other : (s.draw f).buf s.active.other = s.buf s.active.other :=
  State.buf_setBuf_other s s.active _

@[simp] theorem State.buf_spoil_active : s.spoil.buf s.active = unspecified s.freeCount := by
  cases h : s.active <;> simp [State.buf, State.spoil, State.draw, State.setBuf, h]
@[simp] theorem State.buf_spoil_other : s.spoil.buf s.active.other = s.buf s.active.other := by
  cases h : s.active <;> simp [State.buf, State.spoil, State.draw, State.setBuf, h, BufIdx.other]

@[simp] theorem State.buf_finish (j : BufIdx) : (s.finish).buf j = s.buf j := by cases j <;> rfl
@[simp] theorem State.buf_raise (j : BufIdx) : (s.raise e).buf j = s.buf j := by cases j <;> rfl
@[simp] theorem State.buf_answer (j : BufIdx) : (s.answer v).buf j = s.buf j := by cases j <;> rfl
@[simp] theorem State.buf_emit (j : BufIdx) : (s.emit o).buf j = s.buf j := by cases j <;> rfl
@[simp] theorem State.buf_handOff (j : BufIdx) : (s.handOff k).buf j = s.buf j := by cases j <;> rfl
@[simp] theorem State.buf_sinkDone (j : BufIdx) : (s.sinkDone).buf j = s.buf j := by cases j <;> rfl
@[simp] theorem State.buf_issue (j : BufIdx) : (s.issue w).buf j = s.buf j := by cases j <;> rfl
@[simp] theorem State.buf_placed (j : BufIdx) : (s.placed w).buf j = s.buf j := by cases j <;> rfl

@[simp] theorem State.buf_drawn_active : (s.drawn f).buf s.active = f (s.buf s.active) := by simp [State.drawn]
@[simp] theorem State.buf_drawn_other : (s.drawn f).buf s.active.other = s.buf s.active.other := by simp [State.drawn]

end Sys2Proof.Machine
end

