-- ==== Sys2Proof/Laws/Draw.lean ====
section
/-!
SUPPORT. What a drawing command does to a state, said once for every command that plots a list of points: nothing outside the
active buffer and `EXEC`, and exactly the on-screen points of the list.
-/

namespace Sys2Proof.Machine

theorem State.draw_eq (s : State) (f : Memory → Memory) :
    s.draw f = { s with fb0 := (s.draw f).fb0, fb1 := (s.draw f).fb1 } := rfl

theorem State.onlyDrew_drawn (s : State) (f : Memory → Memory) : s.OnlyDrew (s.drawn f) := ⟨rfl, by simp⟩

/-- The pixels after a drawing command. -/
theorem State.pixel_drawn (s : State) (f : Memory → Memory) (x y : Int) :
    (s.drawn f).pixel s.active x y = pixelGet s.params x y (f (s.buf s.active)) := by
  simp [State.pixel]

/-- A command that plots different points recolours exactly those. -/
theorem State.recoloured_plot (s : State) (c : Colour) {pts : List (Int × Int)} (hn : pts.Nodup) :
    s.Recoloured (s.drawn (plot s.params c pts)) c fun x y => (x, y) ∈ pts := by
  refine ⟨fun x y h hm => ?_, fun x y h hm => ?_, fun a ha => ?_⟩
  · rw [State.pixel_drawn, pixelGet_plot _ _ hn _ h, if_pos hm]; rfl
  · rw [State.pixel_drawn, pixelGet_plot _ _ hn _ h, if_neg hm]; rfl
  · rw [State.buf_drawn_active]
    exact read_plot_of_ne _ _ _ _ fun q hq hs => ha q.1 q.2 hs hq

/-- `Recoloured` depends only on which on-screen pixels the set holds. -/
theorem State.Recoloured.congr {s t : State} {c : Colour} {P Q : Int → Int → Prop}
    (h : s.Recoloured t c P) (hPQ : ∀ x y, s.params.onScreen x y → (P x y ↔ Q x y)) : s.Recoloured t c Q := by
  obtain ⟨h1, h2, h3⟩ := h
  exact ⟨fun x y hs hq => h1 x y hs ((hPQ x y hs).2 hq), fun x y hs hq => h2 x y hs fun hp => hq ((hPQ x y hs).1 hp),
    fun a ha => h3 a fun x y hs hp => ha x y hs ((hPQ x y hs).1 hp)⟩

end Sys2Proof.Machine
end

