-- ==== Sys2Proof/Laws/Exec.lean ====
section
/-!
SUPPORT. What one step can do: the next state of a command as a function, `execState`; that every command keeps the memories in
canonical form; and the cases of `step`.
-/

namespace Sys2Proof.Machine

/-- The state that a command's step leaves; no command stops (60_exceptions.md R222). -/
def execState (i : Instr) (s : State) : State :=
  match exec i s with
  | .next t => t
  | .fault _ => s
  | .refused _ => s

/-- Every command's step answers a state. -/
theorem exec_eq_next (i : Instr) (s : State) : exec i s = .next (execState i s) := by cases i <;> rfl

theorem exec_eq_next_iff {i : Instr} {s t : State} : exec i s = .next t ↔ execState i s = t := by
  rw [exec_eq_next]
  constructor
  · intro h; injection h
  · rintro rfl; rfl

/-! ### Every command keeps the memories in canonical form -/

theorem State.memoriesWf_setBuf {s : State} (h : s.MemoriesWf) (k : BufIdx) {m : Memory} (hm : m.wf s.params.fbSize) :
    (s.setBuf k m).MemoriesWf := by
  cases k
  · exact ⟨hm, h.2⟩
  · exact ⟨h.1, hm, h.2.2⟩

theorem State.wf_buf {s : State} (h : s.MemoriesWf) (k : BufIdx) : (s.buf k).wf s.params.fbSize := by
  cases k
  · exact h.1
  · exact h.2.1

theorem memoriesWf_exec {i : Instr} {s t : State} (h8 : s.params.height % 8 = 0) (hm : s.MemoriesWf)
    (h : exec i s = .next t) : t.MemoriesWf := by
  have drew : ∀ c pts, (s.drawn (plot s.params c pts)).MemoriesWf := fun c pts =>
    State.memoriesWf_setBuf hm _ (wf_plot h8 c pts (State.wf_buf hm _))
  cases i <;> injection h with h <;> subst h
  case setpixel => exact State.memoriesWf_setBuf hm _ (wf_pixelOp h8 _ _ _ (State.wf_buf hm _))
  case clear => exact State.memoriesWf_setBuf hm _ (Memory.wf_cleared _)
  case hline => exact drew _ _
  case vline => exact drew _ _
  case line => exact drew _ _
  case fillrect => exact drew _ _
  case drawbitmap =>
    split
    · exact State.memoriesWf_setBuf hm _ (wf_blitBytes h8 _ _ _ _ _ _ (State.wf_buf hm _))
    · exact State.memoriesWf_setBuf hm _ (wf_unspecified _ _)
  case drawcompressed =>
    split
    · exact State.memoriesWf_setBuf (s := { s with rle := _ }) hm _ (wf_blitBytes h8 _ _ _ _ _ _ (State.wf_buf hm _))
    · exact State.memoriesWf_setBuf (s := { s with rle := _ }) hm _ (wf_unspecified _ _)
  case enabledb => split <;> [skip; split_ifs] <;> exact hm
  case present =>
    split
    · unfold presentSingle
      split_ifs <;> first | exact hm | exact State.memoriesWf_setBuf hm _ (Memory.wf_cleared _)
    · unfold presentDouble
      split_ifs
      · exact hm
      · exact State.memoriesWf_setBuf (s := { s.handOff s.active with active := s.active.other }) hm _ (Memory.wf_cleared _)
      · exact hm
  case tick => split_ifs <;> first | exact hm | (unfold tickEarly; split_ifs <;> exact hm)
  all_goals (try split_ifs) <;> exact hm

/-! ### The cases of a step -/

/-- A step in which the host and the core move. -/
theorem step_core {s : State} (h : s.CoreTurn) :
    step s = match coreMove { s with turns := s.turns.tail } with
      | .done t => .next t
      | .run i t => exec i t := by
  cases s with
  | mk =>
    rename_i turns _ _
    cases turns with
    | nil => rfl
    | cons a l =>
      have ha : a = .core := by simpa [State.CoreTurn] using h
      subst ha
      rfl

/-- The cases of a step of the machine: who moved, and to what. -/
theorem step_cases {s t : State} (h : step s = .next t) :
    (∃ ts, s.turns = .sinkDone :: ts ∧ t = { s with turns := ts }.sinkDone) ∨
    (∃ ms ts, s.turns = .clock ms :: ts ∧ t = { s with turns := ts, clkMs := ms }) ∨
    (∃ ts, s.turns = .reset :: ts ∧ t = { s with turns := ts }.resetEvent) ∨
    (s.CoreTurn ∧ ∃ u, u = { s with turns := s.turns.tail } ∧
      ((s.execBit = false ∧ s.host = [] ∧ t = u) ∨
       (s.execBit = false ∧ ∃ w ws, s.host = w :: ws ∧
         ((∃ e, decode s.params.hasPacer w = .error e ∧ t = { u with host := ws, cur := w }.raise .illegal) ∨
          ∃ i, decode s.params.hasPacer w = .ok i ∧ t = { u with host := ws }.issue w)) ∨
       (s.execBit = true ∧
         ((∃ e, decode s.params.hasPacer s.cur = .error e ∧ t = u.raise .illegal) ∨
          ∃ i, decode s.params.hasPacer s.cur = .ok i ∧ exec i u = .next t)))) := by
  by_cases hc : s.CoreTurn
  · refine .inr (.inr (.inr ⟨hc, _, rfl, ?_⟩))
    rw [step_core hc] at h
    cases hx : s.execBit with
    | true =>
      refine .inr (.inr ⟨rfl, ?_⟩)
      cases hd : decode s.params.hasPacer s.cur with
      | error e =>
        simp only [coreMove, hx, if_true, decodeCur, hd] at h
        injection h with h
        exact .inl ⟨e, rfl, h.symm⟩
      | ok i =>
        simp only [coreMove, hx, if_true, decodeCur, hd] at h
        exact .inr ⟨i, rfl, h⟩
    | false =>
      simp only [coreMove, hx, Bool.false_eq_true, if_false] at h
      injection h with h
      subst h
      cases hw : s.host with
      | nil => exact .inl ⟨rfl, rfl, by simp only [hostMove]⟩
      | cons w ws =>
        refine .inr (.inl ⟨rfl, w, ws, rfl, ?_⟩)
        cases hd : decode s.params.hasPacer w with
        | error e => exact .inl ⟨e, rfl, by simp only [hostMove, hd]⟩
        | ok i => exact .inr ⟨i, rfl, by simp only [hostMove, hd]⟩
  · cases hts : s.turns with
    | nil => exact absurd (.inl hts) hc
    | cons tn ts =>
      cases tn with
      | core => exact absurd (.inr (by rw [hts]; rfl)) hc
      | sinkDone =>
        simp only [step, nextMove, hts] at h
        injection h with h
        exact .inl ⟨ts, rfl, h.symm⟩
      | clock ms =>
        simp only [step, nextMove, hts] at h
        injection h with h
        exact .inr (.inl ⟨ms, ts, rfl, h.symm⟩)
      | reset =>
        simp only [step, nextMove, hts] at h
        injection h with h
        exact .inr (.inr (.inl ⟨ts, rfl, h.symm⟩))

end Sys2Proof.Machine
end

