-- ==== Sys2Proof/Laws/PerInstr.lean ====
section
/-!
SUPPORT. The must-be-zero rule (30_encoding.md R86), instruction by instruction: the word of a command has its row's opcode, and
zeros in the reserved fields and in every field its format does not use.
-/

namespace Sys2Proof.Laws.MustBeZero

/-- The encoded command obeys R86 for its own row. -/
def Statement (i : Instr) : Prop :=
  (encode i).opc = i.opcode.bits ∧ i.opcode.format.unusedZero (encode i) = true

theorem setpixel (x y : Half) (c : Colour) : Statement (.setpixel x y c) :=
  ⟨opc_encode _, by simp [Format.unusedZero, Opcode.format, Instr.opcode, encode]⟩
theorem getpixel (x y : Half) : Statement (.getpixel x y) :=
  ⟨opc_encode _, by simp [Format.unusedZero, Opcode.format, Instr.opcode, encode]⟩
theorem clear : Statement .clear :=
  ⟨opc_encode _, by simp [Format.unusedZero, Opcode.format, Instr.opcode, encode]⟩
theorem hline (x y w : Half) (c : Colour) : Statement (.hline x y w c) :=
  ⟨opc_encode _, by simp [Format.unusedZero, Opcode.format, Instr.opcode, encode]⟩
theorem vline (x y h : Half) (c : Colour) : Statement (.vline x y h c) :=
  ⟨opc_encode _, by simp [Format.unusedZero, Opcode.format, Instr.opcode, encode]⟩
theorem line (x0 y0 x1 y1 : Half) (c : Colour) : Statement (.line x0 y0 x1 y1 c) :=
  ⟨opc_encode _, by simp [Format.unusedZero, Opcode.format, Instr.opcode, encode]⟩
theorem fillrect (x y w h : Half) (c : Colour) : Statement (.fillrect x y w h c) :=
  ⟨opc_encode _, by simp [Format.unusedZero, Opcode.format, Instr.opcode, encode]⟩
theorem drawbitmap (x y : Half) (src : Word) (w h : Half) (c : Colour) : Statement (.drawbitmap x y src w h c) :=
  ⟨opc_encode _, by simp [Format.unusedZero, Opcode.format, Instr.opcode, encode]⟩
theorem drawcompressed (x y : Half) (src : Word) (c : Colour) : Statement (.drawcompressed x y src c) :=
  ⟨opc_encode _, by simp [Format.unusedZero, Opcode.format, Instr.opcode, encode]⟩
theorem enabledb : Statement .enabledb :=
  ⟨opc_encode _, by simp [Format.unusedZero, Opcode.format, Instr.opcode, encode]⟩
theorem present (clr : Bool) : Statement (.present clr) :=
  ⟨opc_encode _, by simp [Format.unusedZero, Opcode.format, Instr.opcode, encode]⟩
theorem waitp : Statement .waitp :=
  ⟨opc_encode _, by simp [Format.unusedZero, Opcode.format, Instr.opcode, encode]⟩
theorem setrate (rate : Half) : Statement (.setrate rate) :=
  ⟨opc_encode _, by simp [Format.unusedZero, Opcode.format, Instr.opcode, encode]⟩
theorem tick : Statement .tick :=
  ⟨opc_encode _, by simp [Format.unusedZero, Opcode.format, Instr.opcode, encode]⟩
theorem cpuload : Statement .cpuload :=
  ⟨opc_encode _, by simp [Format.unusedZero, Opcode.format, Instr.opcode, encode]⟩
theorem everyn (n : Half) : Statement (.everyn n) :=
  ⟨opc_encode _, by simp [Format.unusedZero, Opcode.format, Instr.opcode, encode]⟩

/-- Every instruction obeys the rule. -/
theorem all (i : Instr) : Statement i := by
  cases i
  case setpixel => exact setpixel _ _ _
  case getpixel => exact getpixel _ _
  case clear => exact clear
  case hline => exact hline _ _ _ _
  case vline => exact vline _ _ _ _
  case line => exact line _ _ _ _ _
  case fillrect => exact fillrect _ _ _ _ _
  case drawbitmap => exact drawbitmap _ _ _ _ _ _
  case drawcompressed => exact drawcompressed _ _ _ _
  case enabledb => exact enabledb
  case present => exact present _
  case waitp => exact waitp
  case setrate => exact setrate _
  case tick => exact tick
  case cpuload => exact cpuload
  case everyn => exact everyn _

end Sys2Proof.Laws.MustBeZero
end

