-- ==== Sys2Proof/Tests/Slice0.lean ====
section
/-!
SUPPORT. The model's own tests. Expected results are from outside the model: the vectors V1 to V134 and the programs of
95_test_vectors.md, each named in its test, or words put together by hand from the field layout of 30_encoding.md R81. The last
part holds, for every statement with hypotheses, states and operands that meet them (the witnesses).
-/

namespace Sys2Proof.Machine.Tests

/-! ### Ill-formed commands: one for each check of WellFormed.lean -/

theorem test_illformed_tick_no_pacer : Instr.wellFormed false .tick = false := by decide
theorem test_illformed_setrate_no_pacer : Instr.wellFormed false (.setrate 60) = false := by decide
theorem test_illformed_setrate_zero : Instr.wellFormed true (.setrate 0) = false := by decide
theorem test_illformed_setrate_1001 : Instr.wellFormed true (.setrate 1001) = false := by decide
theorem test_illformed_everyn_zero : Instr.wellFormed true (.everyn 0) = false := by decide
theorem test_wellformed_bounds : Instr.wellFormed true (.setrate 1) = true ∧ Instr.wellFormed true (.setrate 1000) = true ∧
    Instr.wellFormed true (.everyn 1) = true ∧ Instr.wellFormed true (.everyn 65535) = true ∧
    Instr.wellFormed false .clear = true := by decide

/-! ### Words written out from the spec, one for each command -/

-- V1: OPC 10, COL 1, A 0003, B 000A
theorem test_decode_setpixel : decode true 0x00000000000000000000000A00030110 = .ok (.setpixel 3 10 .set) := by decide
-- V2: OPC 11, A 0003, B 000A
theorem test_decode_getpixel : decode true 0x00000000000000000000000A00030011 = .ok (.getpixel 3 10) := by decide
-- V10
theorem test_decode_clear : decode false 0x12 = .ok .clear := by decide
-- V20: OPC 20, A 007E, B 0009, C 0005
theorem test_decode_hline : decode true 0x000000000000000000050009007E0120 = .ok (.hline 126 9 5 .set) := by decide
-- V25: OPC 21, A 0000, B 003C, D 000A
theorem test_decode_vline : decode true 0x000000000000000A0000003C00000121 = .ok (.vline 0 60 10 .set) := by decide
-- V38: OPC 22, A FFFE, B 0001, C 0002, D FFFF, all signed
theorem test_decode_line : decode true 0x000000000000FFFF00020001FFFE0122 = .ok (.line (-2) 1 2 (-1) .set) := by decide
-- V27: OPC 23, COL 0, C 0080, D 0040
theorem test_decode_fillrect : decode true 0x00000000000000400080000000000023 = .ok (.fillrect 0 0 128 64 .clear) := by decide
-- V133: OPC 30, C 0002, D 0008, SRC FFFFFFFF
theorem test_decode_drawbitmap : decode true 0x0000FFFFFFFF00080002000000000130 =
    .ok (.drawbitmap 0 0 0xFFFFFFFF 2 8 .set) := by decide
-- P2 step 4: OPC 31, COL 2, B 0006, SRC 00000010
theorem test_decode_drawcompressed : decode true 0x00000000001000000000000600000231 =
    .ok (.drawcompressed 0 6 16 .toggle) := by decide
-- V80
theorem test_decode_enabledb : decode true 0x40 = .ok .enabledb := by decide
-- V83, V84: CLR is bit 10
theorem test_decode_present : decode true 0x41 = .ok (.present false) ∧ decode true 0x441 = .ok (.present true) := by decide
-- V88
theorem test_decode_waitp : decode true 0x42 = .ok .waitp := by decide
-- V103: OPC 50, C 001E
theorem test_decode_setrate : decode true 0x0000000000000000001E000000000050 = .ok (.setrate 30) := by decide
-- V105
theorem test_decode_tick : decode true 0x51 = .ok .tick := by decide
-- V109
theorem test_decode_cpuload : decode true 0x52 = .ok .cpuload := by decide
-- V112: OPC 53, C 0003
theorem test_decode_everyn : decode true 0x00000000000000000003000000000053 = .ok (.everyn 3) := by decide

/-- V120 to V130, V134: the reason for which each word is illegal. -/
theorem test_decode_illegal :
    decode true 0 = .error .unknownOpcode ∧ decode true 0xFF = .error .unknownOpcode ∧
    decode true 0x00000000000000000000000100010310 = .error .reservedColour ∧
    decode true 0x112 = .error .unusedField ∧ decode true 0x841 = .error .unusedField ∧
    decode true 0x00010000000000000000000000000012 = .error .unusedField ∧
    decode true 0x00000000000000000001000A00030110 = .error .unusedField ∧
    decode true 0x50 = .error .rateRange ∧ decode true 0x000000000000000003E9000000000050 = .error .rateRange ∧
    decode true 0x53 = .error .everyZero ∧ decode false 0x51 = .error .noPacer ∧
    decode true 0x411 = .error .unusedField := by decide

/-- The encoder on words of the spec: V38, V132, V133, P5 step 8. -/
theorem test_encode :
    encode (.line (-2) 1 2 (-1) .set) = 0x000000000000FFFF00020001FFFE0122 ∧
    encode (.fillrect (-32768) (-32768) 65535 65535 .toggle) = 0x000000000000FFFFFFFF800080000223 ∧
    encode (.drawbitmap 0 0 0xFFFFFFFF 2 8 .set) = 0x0000FFFFFFFF00080002000000000130 ∧
    encode (.drawbitmap 0 0 1 2 16 .set) = 0x00000000000100100002000000000130 ∧ encode (.present true) = 0x441 := by decide

/-! ### Small states -/

/-- The default build with the pacer and the given asset storage. -/
def build (assets : List Byte) : Params :=
  { Params.default with
    hasPacer  := true
    assetSize := assets.length
    asset     := { background := .zeros
                   cells      := ((List.range assets.length).zip assets).filter fun c => c.2 != 0 } }

/-- After reset of that build, both buffers cleared ("buffer zero"). -/
def start (assets : List Byte) : State :=
  { State.atReset (build assets) 1 with fb0 := Memory.cleared, fb1 := Memory.cleared }

/-- The same, but `FB0` holds the given bytes. -/
def holding (cells : List Host.Cell) : State := { start [] with fb0 := { background := .zeros, cells } }

/-- The bytes of the active buffer that are not zero after a command. -/
def drawnBy (i : Instr) (s : State) : List Host.Cell := ((execState i s).buf s.active).cells

/-- The word `w` is on offer, and nothing after it. -/
def offering (s : State) (w : CommandWord) : State := { s with host := [w] }

/-- The command of the word `w` is issued and has done nothing yet. -/
def running (s : State) (w : CommandWord) : State := { s with execBit := true, cur := w }

/-! ### Every row of the table decodes and runs as the first instruction after reset -/

/-- A word of each row of the table. -/
def tableWords : List Nat :=
  [0x10, 0x11, 0x12, 0x20, 0x21, 0x22, 0x23, 0x30, 0x31, 0x40, 0x41, 0x42, 0x3C000000000050, 0x51, 0x52, 0x3000000000053]

theorem test_table_words_decode : tableWords.map (fun w => (decodeTableWord 128 w).map Instr.opcode) =
    [.setpixel, .getpixel, .clear, .hline, .vline, .line, .fillrect, .drawbitmap, .drawcompressed, .enabledb, .present,
      .waitp, .setrate, .tick, .cpuload, .everyn].map some := by decide

/-- A table word that is placed runs in the next step: V80 from reset, V105 (the word brings the pacer). -/
theorem test_fetch_word_runs :
    (∃ t, step (State.reset.withFetchWord 128 0x40) = .next t ∧ t.mode = .doubleBuffer ∧ t.cur = 0x40 ∧ t.execBit = false) ∧
    (∃ t, step (State.reset.withFetchWord 128 0x51) = .next t ∧ t.result = 1 ∧ t.nextStart = 16) :=
  ⟨⟨_, rfl, by decide⟩, ⟨_, rfl, by decide⟩⟩

/-- R30, V83: the issue of PRESENT is a step of its own; only the next one hands the frame over. -/
theorem test_issue_then_hand_off :
    (∃ t, step (offering (start []) 0x41) = .next t ∧ t.execBit = true ∧ t.phase = false ∧ t.sinkBusy = false ∧
      t.out = [] ∧ t.host = [] ∧ ∃ u, step t = .next u ∧ u.status = 0x003 ∧ u.out.length = 1) :=
  ⟨_, rfl, rfl, rfl, rfl, rfl, rfl, _, rfl, by decide, rfl⟩

/-- R234, V121: an illegal word leaves even `PHASE` as it was. -/
theorem test_illegal_word_changes_flag_only :
    step { offering (start []) 0xFF with phase := true } =
      .next { start [] with phase := true, cur := 0xFF, errIllegal := true } := rfl

/-! ### Pixel access -/

-- V1, V8
theorem test_setpixel : drawnBy (.setpixel 3 10 .set) (start []) = [(131, 0x04)] ∧
    drawnBy (.setpixel 127 63 .set) (start []) = [(1023, 0x80)] := by decide
-- V9, and a pixel off screen: V6
theorem test_setpixel_clear : drawnBy (.setpixel 3 10 .clear) (holding [(131, 0xFF)]) = [(131, 0xFB)] ∧
    drawnBy (.setpixel (-1) 5 .set) (start []) = [] := by decide
-- V2, V7: RESULT, 0 off screen
theorem test_getpixel : (execState (.getpixel 3 10) (holding [(131, 0x04)])).result = 1 ∧
    (execState (.getpixel 3 64) (holding [(131, 0x04)])).result = 0 := by decide
-- V10: the other buffer unchanged
theorem test_clear : drawnBy .clear (holding [(0, 1), (1023, 0x80)]) = [] ∧
    (execState .clear { holding [(0, 1)] with active := .fb1, mode := .doubleBuffer }).fb0.cells = [(0, 1)] := by decide

/-! ### Runs and rectangles -/

-- V20, V21
theorem test_hline : drawnBy (.hline 126 9 5 .set) (start []) = [(254, 0x02), (255, 0x02)] ∧
    drawnBy (.hline (-3) 0 5 .set) (start []) = [(0, 0x01), (1, 0x01)] := by decide
-- V22, V23
theorem test_hline_none : drawnBy (.hline 5 5 0 .set) (start []) = [] ∧ drawnBy (.hline 0 64 4 .set) (start []) = [] := by
  decide
-- V24
theorem test_vline : drawnBy (.vline 5 6 4 .set) (start []) = [(5, 0xC0), (133, 0x03)] := by decide +kernel
-- V25
theorem test_vline_clipped : drawnBy (.vline 0 60 10 .set) (start []) = [(896, 0xF0)] := by decide +kernel
-- V26
theorem test_fillrect : drawnBy (.fillrect 2 6 3 4 .set) (start []) =
    [(2, 0xC0), (3, 0xC0), (4, 0xC0), (130, 0x03), (131, 0x03), (132, 0x03)] := by decide +kernel
-- V28: the greatest rectangle covers every column and row of the screen
theorem test_fillrect_greatest : span (sext16 0x8000) (zext16 0xFFFF) 128 = List.range 128 ∧
    span (sext16 0x8000) (zext16 0xFFFF) 64 = List.range 64 := by decide +kernel

/-! ### Line -/

-- V33, V38
theorem test_line : drawnBy (.line 5 2 1 4 .set) (start []) = [(1, 0x10), (2, 0x10), (3, 0x08), (4, 0x08), (5, 0x04)] ∧
    drawnBy (.line (-2) 1 2 (-1) .set) (start []) = [(0, 0x01), (1, 0x01)] := by decide +kernel
-- V40; V39 in full
theorem test_line_points : linePoints 0 3 6 0 = [(0, 3), (1, 3), (2, 2), (3, 2), (4, 1), (5, 1), (6, 0)] ∧
    linePoints 126 60 130 66 = [(126, 60), (127, 61), (127, 62), (128, 63), (129, 64), (129, 65), (130, 66)] := by
  decide +kernel

/-! ### Bitmaps -/

/-- The bitmap of 95_test_vectors.md 2.4. -/
def img : List Byte := [0xFF, 0x81, 0x0F, 0x01]

-- V45, V46
theorem test_drawbitmap : drawnBy (.drawbitmap 2 3 0 2 8 .set) (start img) =
      [(2, 0xF8), (3, 0x08), (130, 0x07), (131, 0x04)] ∧
    drawnBy (.drawbitmap 2 (-3) 0 2 8 .set) (start img) = [(2, 0x1F), (3, 0x10)] := by decide +kernel
-- V50, V53, V54
theorem test_drawbitmap_bounds : drawnBy (.drawbitmap 0 0 0 2 12 .set) (start img) =
      [(0, 0xFF), (1, 0x81), (128, 0x0F), (129, 0x01)] ∧
    (execState (.drawbitmap 0 0 1 2 16 .set) (start img)).status = 0x800 ∧
    (execState (.drawbitmap 0 0 99 0 8 .set) (start img)).status = 0 := by decide +kernel

/-- The stream of V63. -/
def stream : List Byte := [0x01, 0x07, 0x9D, 0x77]

-- V63, V65
theorem test_drawcompressed : drawnBy (.drawcompressed 0 0 0 .set) (start stream) = [(0, 0x0F), (1, 0xF0)] ∧
    drawnBy (.drawcompressed 0 0 0 .set) (start [0x02, 0x04, 0xA5, 0x92, 0x4A, 0x2A]) =
      [(0, 0x1F), (1, 0x1F), (2, 0x1F)] := by decide +kernel
-- V71, V72, V73
theorem test_drawcompressed_errors :
    (execState (.drawcompressed 0 0 0 .set) (start [0x00, 0x07, 0x89, 0x00])).status = 0x400 ∧
    (execState (.drawcompressed 0 0 0 .set) (start [0x00, 0x07, 0x01, 0x00])).status = 0x400 ∧
    (execState (.drawcompressed 0 0 0 .set) (start [0x00, 0x07])).status = 0x800 := by decide +kernel

/-! ### Swap controller -/

-- V80, V82
theorem test_enabledb : (execState .enabledb (start [])).status = 0x004 ∧
    (execState .enabledb { start [] with params := { build [] with hasBuf1 := false } }).status = 0x200 := by decide

/-- Start of V85: double buffering, pixel (0, 0) set. -/
def doubled : State := { holding [(0, 0x01)] with mode := .doubleBuffer }

-- V85, V83: the states after the first step
theorem test_present : (execState (.present true) doubled).status = 0x00E ∧
    (execState (.present true) doubled).fb0.cells = [(0, 0x01)] ∧
    (execState (.present false) { holding [(0, 0x01)] with execBit := true }).status = 0x003 := by decide
-- V85: the event; V84: the second step
theorem test_present_event :
    ((execState (.present true) doubled).out.map fun o => match o with
      | .paintScreen k f => (k, f.take 2, f.length)
      | .idleReq => (.fb1, [], 0)) = [(.fb0, [0x01, 0x00], 1024)] ∧
    (execState (.present true) { holding [(0, 0x01)] with execBit := true, phase := true }).fb0.cells = [] := by
  decide +kernel
-- V88, V89
theorem test_waitp : (execState .waitp { doubled with sinkBusy := true, active := .fb1, execBit := true }).status = 0x00F ∧
    (execState .waitp { start [] with execBit := true }).status = 0 := by decide

/-! ### Pacer -/

-- V102, V104
theorem test_setrate : (execState (.setrate 1000) (start [])).eachMs = 1 ∧
    (execState (.setrate 7) (start [])).eachMs = 142 := by decide
-- V105
theorem test_tick_grant :
    let t := execState .tick { start [] with clkMs := 1234 }
    t.result = 1 ∧ t.frameCount = 0 ∧ t.lastStart = 1234 ∧ t.nextStart = 1250 ∧ t.justRendered = true := by decide
-- V106, V107
theorem test_tick_early : (execState .tick { start [] with nextStart := 16, clkMs := 14 }).out = [.idleReq] ∧
    (execState .tick { start [] with nextStart := 16, clkMs := 15 }).out = [] := by decide
-- V110, V111
theorem test_cpuload : (execState .cpuload { start [] with lastDur := 20 }).result = 125 ∧
    (execState .cpuload (start [])).result = 0 := by decide
-- V112, V113, V114
theorem test_everyn : (execState (.everyn 3) { start [] with frameCount := 6 }).result = 1 ∧
    (execState (.everyn 4) { start [] with frameCount := 6 }).result = 0 ∧
    (execState (.everyn 1) (start [])).result = 1 ∧ (execState (.everyn 2) (start [])).result = 0 := by decide

-- V100: the registers after reset, with the pacer; R25: without it, as in the default build of R9
theorem test_registers_after_reset :
    [2, 3, 4, 5, 6].map (State.atReset (build []) 1).readReg = [0xFFFFFFFF, 16, 0, 0, 0] ∧
    [2, 3, 4, 5, 6].map State.reset.readReg = [0, 0, 0, 0, 0] := by decide

/-! ### Witnesses: states and operands that meet the hypotheses of the statements -/

theorem testbuild_wf (l : List Byte) (h : l.length ≤ 2 ^ 32) : (build l).wf :=
  ⟨⟨by simp [build, Params.default], by simp [build, Params.default]⟩, by simp [build, Params.default], h,
    by simp [build, Params.default]⟩

/-- `EncodeDecode`, `DecodeEncode`. -/
theorem test_witness_encoding : decode false 0x441 = .ok (.present true) ∧
    Instr.wellFormed true (.setrate 1000) = true ∧ Instr.wellFormed true (.everyn 1) = true := by decide

/-- `IllegalWords`: a word on offer, and one word for each of R87 (a) to (f); the legal words nearest to (e) and (f). -/
theorem test_witness_illegal_words :
    (∃ (s : State) (w : CommandWord) (ws : List CommandWord), s.CoreTurn ∧ s.execBit = false ∧ s.host = w :: ws ∧
      IllegalWord s.params.hasPacer w) ∧
    IllegalWord true 0xFF ∧ IllegalWord false 0x51 ∧ IllegalWord true 0x411 ∧ IllegalWord true 0x310 ∧
    IllegalWord true 0x50 ∧ IllegalWord true 0x3E9000000000050 ∧ IllegalWord true 0x53 ∧
    ¬ IllegalWord true 0x1000000000050 ∧ ¬ IllegalWord true 0x3E8000000000050 ∧ ¬ IllegalWord true 0x1000000000053 := by
  refine ⟨⟨offering (start []) 0, 0, [], .inl rfl, rfl, rfl, .inl (by decide)⟩, ?_⟩
  refine ⟨?_, ?_, ?_, ?_, ?_, ?_, ?_, ?_, ?_, ?_⟩ <;> unfold IllegalWord fitsTable <;> decide

/-- `StepRunsDecoded`: both clauses. -/
theorem test_witness_step_runs :
    (∃ (s : State) (w : CommandWord) (ws : List CommandWord) (i : Instr), s.CoreTurn ∧ s.execBit = false ∧
      s.host = w :: ws ∧ decode s.params.hasPacer w = .ok i) ∧
    (∃ (s : State) (i : Instr), s.Runs i) :=
  ⟨⟨offering (start []) 0x12, 0x12, [], .clear, .inl rfl, rfl, rfl, by decide⟩,
    ⟨{ start [] with execBit := true, cur := 0x42 }, .waitp, .inl rfl, rfl, by decide⟩⟩

/-- `StepsWithoutCommand`: the sink (also with nothing in flight), the clock, an idle core. -/
theorem test_witness_steps_without_command :
    (∃ (s : State) (ts : List Turn), s.turns = .sinkDone :: ts) ∧
    (∃ (s : State) (ms : Word) (ts : List Turn), s.turns = .clock ms :: ts) ∧
    (∃ s : State, s.CoreTurn ∧ s.execBit = false ∧ s.host = []) :=
  ⟨⟨{ start [] with turns := [.sinkDone] }, [], rfl⟩, ⟨{ start [] with turns := [.clock 5] }, 5, [], rfl⟩,
    ⟨start [], .inl rfl, rfl, rfl⟩⟩

theorem start_inv (l : List Byte) (h : l.length ≤ 2 ^ 32) (ha : (build l).asset.wf l.length) : (start l).Inv :=
  ⟨testbuild_wf l h, ⟨Memory.wf_cleared _, Memory.wf_cleared _, ha⟩,
    ⟨fun _ => rfl, fun h => (nomatch h), fun _ _ => rfl, fun h => (nomatch h), fun _ h => (nomatch h)⟩,
    by simp [State.PacerInv, start, State.atReset, build, Params.default], fun h => (nomatch h)⟩

/-- `InvStep`, `FrameInFlight`: a state within the invariants in which the host moves, and one in which a command runs. -/
theorem test_witness_invariant :
    (∃ s t : State, s.Inv ∧ s.FrameInv ∧ s.execBit = false ∧ step s = .next t) ∧
    (∃ s t : State, s.Inv ∧ s.FrameInv ∧ s.execBit = true ∧ step s = .next t) :=
  have h := start_inv [] (by decide) (by decide)
  ⟨⟨offering (start []) 0x12, _, h, fun h => absurd h (by decide), rfl, rfl⟩,
    ⟨running (start []) 0x12, _, ⟨h.1, h.2.1, ⟨fun _ => rfl, fun h => (nomatch h), fun _ _ => rfl, fun h => (nomatch h),
      fun _ h => (nomatch h)⟩, h.2.2.2.1, fun _ => ⟨.clear, by decide⟩⟩, fun h => absurd h (by decide), rfl, rfl⟩⟩

/-- `InvReset`: a legal build. -/
theorem test_witness_build : ∃ p : Params, p.wf ∧ p.asset.wf p.assetSize := ⟨build img, by decide, by decide⟩

/-- `ResetEvent`: with the pacer and without. -/
theorem test_witness_reset : (∃ (s : State) (ts : List Turn), s.turns = .reset :: ts ∧ s.params.hasPacer = true) ∧
    (∃ (s : State) (ts : List Turn), s.turns = .reset :: ts ∧ s.params.hasPacer = false) :=
  ⟨⟨{ start [] with turns := [.reset] }, [], rfl, rfl⟩,
    ⟨{ start [] with turns := [.reset], params := { build [] with hasPacer := false } }, [], rfl, rfl⟩⟩

/-- `RegisterFile`: the reserved bits and registers at both ends of their ranges. -/
theorem test_witness_registers : (6 = 6 ∨ 6 = 7 ∨ 12 ≤ 6) ∧ (31 = 6 ∨ 31 = 7 ∨ 12 ≤ 31) ∧ 7 ≤ (7 : BitVec 8).toNat ∧
    7 ≤ (255 : BitVec 8).toNat ∧ (start []).params.hasPacer = true ∧
    { build [] with hasPacer := false }.hasPacer = false := by decide

/-- `ErrorsSticky`: all four flags set before a step. -/
theorem test_witness_errors_sticky : ∃ s t : State, s.NoReset ∧ step s = .next t ∧ s.errIllegal = true ∧ s.errAlloc = true ∧
    s.errStream = true ∧ s.errAsset = true :=
  ⟨{ running (start []) 0x12 with errIllegal := true, errAlloc := true, errStream := true, errAsset := true }, _,
    fun h => absurd h (by decide), rfl, rfl, rfl, rfl, rfl⟩

/-- `ModeForward`: each clause. -/
theorem test_witness_mode : (∃ s t : State, s.NoReset ∧ step s = .next t ∧ s.mode = .doubleBuffer) ∧
    (∃ s t : State, s.NoReset ∧ step s = .next t ∧ t.mode ≠ s.mode) ∧
    (∃ (i : Instr) (s t : State), exec i s = .next t ∧ t.mode ≠ s.mode) :=
  ⟨⟨running doubled 0x40, _, fun h => absurd h (by decide), rfl, rfl⟩,
    ⟨running (start []) 0x40, _, fun h => absurd h (by decide), rfl, by decide⟩, ⟨.enabledb, start [], _, rfl, by decide⟩⟩

/-- `ResultWriters`: each of the four; and a step. -/
theorem test_witness_result :
    (execState (.getpixel 0 0) (holding [(0, 1)])).result ≠ (start []).result ∧
    (execState .tick (start [])).result ≠ (start []).result ∧
    (execState .cpuload { start [] with lastDur := 20 }).result ≠ (start []).result ∧
    (execState (.everyn 1) (start [])).result ≠ (start []).result ∧
    ∃ s t : State, s.NoReset ∧ step s = .next t ∧ t.result ≠ s.result :=
  ⟨by decide, by decide, by decide, by decide, running (start []) 0x51, _, fun h => absurd h (by decide), rfl, by decide⟩

/-- `OnlyActiveWritten`, `NonInterference`: drawing while a presentation is in flight. -/
theorem test_witness_swap : ∃ s t : State, s.SwapInv ∧ s.NoReset ∧ s.sinkBusy = true ∧ step s = .next t :=
  ⟨{ doubled with active := .fb1, sinkBusy := true, execBit := true, cur := 0x10110 }, _,
    ⟨fun h => absurd h (by decide), fun _ => rfl, fun h => absurd h (by decide), fun _ _ => rfl,
      fun h => absurd h (by decide)⟩, fun h => absurd h (by decide), rfl, rfl⟩

/-- `BusyPort`: a word taken, and a word offered while a command runs. -/
theorem test_witness_port : (∃ s t : State, step s = .next t ∧ t.host ≠ s.host) ∧
    (∃ s t : State, s.NoReset ∧ s.execBit = true ∧ step s = .next t) :=
  ⟨⟨offering (start []) 0x12, _, rfl, by decide⟩,
    ⟨{ doubled with sinkBusy := true, execBit := true, cur := 0x42, host := [0x12] }, _,
      fun h => absurd h (by decide), rfl, rfl⟩⟩

/-- `PixelMap`: both corners of the screen, both ends of the byte and bit ranges, and two points with one byte and bit. -/
theorem test_witness_pixel_map : (build []).wf ∧ (build []).onScreen 0 0 ∧ (build []).onScreen 127 63 ∧
    0 < (build []).fbSize ∧ 1023 < (build []).fbSize ∧ (start []).params = build [] ∧
    (build []).byteIndex 127 63 = 1023 ∧ bitIndex 63 = 7 := by decide

/-- `PixelOpsCommute`: a build, a memory, two different pixels, a colour that is not `TOGGLE`, two orders of different points. -/
theorem test_witness_pixel_ops : (build []).height % 8 = 0 ∧ Memory.cleared.wf (build []).fbSize ∧
    ((0, 0) : Int × Int) ≠ (0, 1) ∧ Colour.set ≠ .toggle ∧
    [((0, 0) : Int × Int), (0, 1)].Perm [(0, 1), (0, 0)] ∧ [((0, 0) : Int × Int), (0, 1)].Nodup := by decide

/-- `Setpixel`, `Getpixel`, `SetThenGet`: a pixel on and one off screen, each colour, another pixel. -/
theorem test_witness_pixels : (start []).params.onScreen (sext16 127) (sext16 63) ∧
    ¬ (start []).params.onScreen (sext16 128) (sext16 0) ∧ ¬ (start []).params.onScreen (sext16 (-1)) (sext16 0) ∧
    ((126, 63) : Half × Half) ≠ (127, 63) ∧
    ∀ c, exec (.setpixel 127 63 c) (start []) = .next (execState (.setpixel 127 63 c) (start [])) :=
  ⟨by decide, by decide, by decide, by decide, fun _ => exec_eq_next _ _⟩

/-- `RectLaws`: four states; two rectangles that share no pixel; two that share one. -/
theorem test_witness_rect_laws :
    (∃ (x y w h x' y' w' h' : Half) (c c' : Colour) (s t u t' u' : State), s.params.wf ∧ s.MemoriesWf ∧
      exec (.fillrect x y w h c) s = .next t ∧ exec (.fillrect x' y' w' h' c') t = .next u ∧
      exec (.fillrect x' y' w' h' c') s = .next t' ∧ exec (.fillrect x y w h c) t' = .next u' ∧
      (∀ px py : Int, ¬ (((x.toInt ≤ px ∧ px < x.toInt + w.toNat) ∧ y.toInt ≤ py ∧ py < y.toInt + h.toNat) ∧
        (x'.toInt ≤ px ∧ px < x'.toInt + w'.toNat) ∧ y'.toInt ≤ py ∧ py < y'.toInt + h'.toNat))) ∧
    (∃ (c c' : Colour) (s t : State), s.params.wf ∧ s.MemoriesWf ∧ exec (.fillrect 0 0 2 2 c) s = .next t ∧ c = c' ∧
      s.params.onScreen 1 1) :=
  ⟨⟨0, 0, 1, 1, 1, 0, 1, 1, .set, .toggle, start [], _, _, _, _, by decide, (start_inv [] (by decide) (by decide)).2.1, rfl,
      rfl, rfl, rfl, by
        intro px py
        simp
        omega⟩,
    ⟨.toggle, .toggle, start [], _, by decide, (start_inv [] (by decide) (by decide)).2.1, rfl, rfl, by decide⟩⟩

/-- `LineClosedForm`: the first and the last point. -/
theorem test_witness_line_closed_form : ((0 : Nat) : Int) ≤ (lineSetup 0 0 3 1).dx ∧ ((3 : Nat) : Int) ≤ (lineSetup 0 0 3 1).dx := by
  decide

/-- `LineLaws`: steep and not, either end first, and two successive points. -/
theorem test_witness_line_laws :
    (((3 - 0 : Int).natAbs > (1 - 0 : Int).natAbs) ∧ (0 : Int) ≤ 3) ∧ (¬ ((1 - 0 : Int).natAbs > (3 - 0 : Int).natAbs) ∧ (0 : Int) ≤ 3) ∧
    (linePoints 0 0 1 3)[0]? = some (0, 0) ∧ (linePoints 0 0 1 3)[0 + 1]? = some (0, 1) ∧
    (linePoints 0 0 3 1)[2]? = some (2, 1) ∧ (linePoints 0 0 3 1)[2 + 1]? = some (3, 1) := by decide +kernel

/-- `BandSplitAgrees`. -/
theorem test_witness_band_split : (build []).height % 8 = 0 ∧ Memory.cleared.wf (build []).fbSize := by decide

/-- `Drawbitmap`, `DrawbitmapAssetError`: the last byte inside, no byte at all, the first byte outside. -/
theorem test_witness_drawbitmap :
    (0 : Word).toNat + (2 : Half).toNat * ceil8 (16 : Half).toNat ≤ (start img).params.assetSize ∧
    (0 : Half).toNat * ceil8 (8 : Half).toNat = 0 ∧
    0 < (2 : Half).toNat * ceil8 (16 : Half).toNat ∧
    (start img).params.assetSize < (1 : Word).toNat + (2 : Half).toNat * ceil8 (16 : Half).toNat := by decide

/-- `BitmapLaws`: a bitmap of 0xFF bytes, a pixel on screen, two commands in turn. -/
theorem test_witness_bitmap_laws : ∃ (s t u : State) (src : Word) (w h : Half), s.params.wf ∧ s.MemoriesWf ∧
    src.toNat + w.toNat * ceil8 h.toNat ≤ s.params.assetSize ∧ h.toNat % 8 = 0 ∧
    (∀ n < w.toNat * ceil8 h.toNat, s.params.asset.read (src.toNat + n) = 0xFF) ∧
    exec (.drawbitmap 0 0 src w h .set) s = .next t ∧ exec (.drawbitmap 0 0 src w h .clear) t = .next u ∧
    s.params.onScreen 0 0 :=
  ⟨start [0xFF, 0xFF], _, _, 0, 2, 8, by decide, (start_inv _ (by decide) (by decide)).2.1, by decide, by decide, by decide,
    rfl, rfl, by decide⟩

theorem assetHolds_of_check {p : Params} {src : Nat} {bs : List Bool}
    (h : ∀ k < bs.length, ((assetRead p (src + k / 8)).any fun b => b.getLsbD (k % 8) == bs.getD k false) = true) :
    assetHolds p src bs := fun k hk => by
  obtain ⟨b, hb, he⟩ := (Option.any_eq_true _ _).1 (h k hk)
  exact ⟨b, hb, by simpa using he⟩

/-- The runs of V63. -/
def runs63 : List StreamRun := [⟨1, 4⟩, ⟨1, 8⟩, ⟨1, 4⟩]

/-- `DecodeWellFormed`, `DrawcompressedWellFormed`: the stream of V63. -/
theorem test_witness_well_formed : (∀ r ∈ runs63, r.ok) ∧ runsLength runs63 = 2 * 8 * ceil8 8 ∧
    assetHolds (start stream).params (0 : Word).toNat (headerBits 2 8 true ++ runsBits runs63) :=
  ⟨by unfold StreamRun.ok; decide, by decide, assetHolds_of_check (by decide)⟩

/-- `DecodeMalformed`: the streams of V71 and V72. -/
theorem test_witness_malformed :
    (∀ r ∈ ([] : List StreamRun), r.ok) ∧ runsLength [] < 1 * 8 * ceil8 8 ∧
    (StreamRun.mk 2 9).ok ∧ 1 * 8 * ceil8 8 - runsLength [] < (StreamRun.mk 2 9).len ∧
    assetHolds (build [0x00, 0x07, 0x89, 0x00]) 0 (headerBits 1 8 true ++ runsBits [] ++ (StreamRun.mk 2 9).bits) ∧
    assetHolds (build [0x00, 0x07, 0x01, 0x00]) 0 (headerBits 1 8 true ++ runsBits [] ++ List.replicate 9 false) :=
  ⟨by simp, by decide, by unfold StreamRun.ok; decide, by decide, assetHolds_of_check (by decide),
    assetHolds_of_check (by decide)⟩

/-- `Drawcompressed`, `DrawcompressedError`: V63 decodes; V72 and V73 end in their errors; a stream outside asset storage. -/
theorem test_witness_drawcompressed :
    (∃ img r, decodeStream (start stream).params (0 : Word).toNat = .ok img r) ∧
    (∃ r, decodeStream (start [0x00, 0x07, 0x01, 0x00]).params (0 : Word).toNat = .err .stream r) ∧
    (∃ r, decodeStream (start [0x00, 0x07]).params (0 : Word).toNat = .err .asset r) ∧
    (start stream).params.assetSize ≤ (4 : Word).toNat :=
  ⟨⟨_, _, rfl⟩, ⟨_, rfl⟩, ⟨_, rfl⟩, by decide⟩

/-- `Enabledb`: the three cases. -/
theorem test_witness_enabledb : doubled.mode = .doubleBuffer ∧
    ((start []).mode = .singleBuffer ∧ (start []).params.hasBuf1 = true) ∧
    (let s : State := { start [] with params := { build [] with hasBuf1 := false } }
     s.mode = .singleBuffer ∧ s.params.hasBuf1 = false) := by decide

/-- `Present`, `Waitp`: in flight; single before and after the hand-off; double. -/
theorem test_witness_present : (let s : State := { doubled with sinkBusy := true }; s.sinkBusy = true) ∧
    ((start []).sinkBusy = false ∧ (start []).mode = .singleBuffer ∧ (start []).phase = false) ∧
    (let s : State := { start [] with phase := true }
     s.sinkBusy = false ∧ s.mode = .singleBuffer ∧ s.phase = true) ∧
    (doubled.sinkBusy = false ∧ doubled.mode = .doubleBuffer) := by decide

/-- `HeldUntilSinkDone`: a held WAITP, the core's turn and the sink's; a held PRESENT past its hand-off in SINGLE_BUFFER. -/
theorem test_witness_held :
    (∃ s : State, s.SwapInv ∧ s.execBit = true ∧ s.sinkBusy = true ∧ decode s.params.hasPacer s.cur = .ok .waitp ∧
      s.CoreTurn) ∧
    (∃ (s : State) (ts : List Turn), s.SwapInv ∧ s.execBit = true ∧ s.sinkBusy = true ∧
      decode s.params.hasPacer s.cur = .ok (.present true) ∧ s.turns = .sinkDone :: ts ∧
      (ts = [] ∨ ts.head? = some .core)) := by
  refine ⟨⟨{ doubled with active := .fb1, sinkBusy := true, execBit := true, cur := 0x42 }, ?_, rfl, rfl, by decide, .inl rfl⟩,
    ⟨{ start [] with sinkBusy := true, execBit := true, phase := true, cur := 0x441, turns := [.sinkDone] }, [], ?_, rfl, rfl,
      by decide, rfl, .inl rfl⟩⟩
  · exact ⟨fun h => absurd h (by decide), fun _ => rfl, fun h => absurd h (by decide), fun _ _ => rfl,
      fun h => absurd h (by decide)⟩
  · exact ⟨fun _ => rfl, fun h => absurd h (by decide), fun _ h => absurd h (by decide), fun h => absurd h (by decide),
      fun _ _ => ⟨rfl, rfl, true, by decide⟩⟩

/-- `SinkDoneCommutes`. -/
theorem test_witness_sink_commutes : ∃ (i : Instr) (s t : State), i ≠ .waitp ∧ (∀ clr, i ≠ .present clr) ∧
    exec i s = .next t := ⟨.clear, { doubled with sinkBusy := true }, _, by decide, by decide, rfl⟩

/-- `Setrate`, `Cpuload`, `Everyn`: the operands at the bounds and just outside them, a frame count that `n` divides and one that it does not. -/
theorem test_witness_pacer : 1 ≤ (1 : Half).toNat ∧ (1000 : Half).toNat ≤ 1000 ∧
    (0 : Half).toNat = 0 ∧ 1000 < (1001 : Half).toNat ∧ (start []).params.hasPacer = true ∧
    (start []).eachMs ≠ 0 ∧ (((1 : Half).toNat : Int) ∣ (start []).frameCount.toInt) ∧
    ¬ (((2 : Half).toNat : Int) ∣ (start []).frameCount.toInt) := by decide

/-- `Tick`: the three branches; with 2 ms and with 1 ms left. -/
theorem test_witness_tick :
    (let s : State := { start [] with justRendered := true }; s.params.hasPacer = true ∧ s.justRendered = true) ∧
    (let s : State := { start [] with nextStart := 16, clkMs := 14 }
     s.justRendered = false ∧ s.clkMs.toNat < s.nextStart.toNat ∧
       s.params.idleThresholdMs ≤ s.nextStart.toNat - s.clkMs.toNat) ∧
    (let s : State := { start [] with nextStart := 16, clkMs := 15 }
     s.justRendered = false ∧ s.clkMs.toNat < s.nextStart.toNat ∧
       s.nextStart.toNat - s.clkMs.toNat < s.params.idleThresholdMs) ∧
    (let s : State := { start [] with nextStart := 16, clkMs := 16 }
     s.justRendered = false ∧ s.nextStart.toNat ≤ s.clkMs.toNat) := by decide

/-- `FrameCountGrants`: a step that changes the count. -/
theorem test_witness_frame_count : ∃ s t : State, s.NoReset ∧ step s = .next t ∧ t.frameCount ≠ s.frameCount :=
  ⟨running (start []) 0x51, _, fun h => absurd h (by decide), rfl, by decide⟩

/-- `NoTwoGrants`, `FrameCountGrants`: a granting TICK, and another after it. -/
theorem test_witness_grants : ∃ (s t u : State) (ms : Word), s.params.hasPacer = true ∧ exec .tick s = .next t ∧
    t.result = 1 ∧ t.frameCount ≠ s.frameCount ∧ exec .tick { t with clkMs := ms } = .next u :=
  ⟨start [], _, _, 0xFFFFFFFF, rfl, rfl, by decide, by decide, rfl⟩

/-- `FirstTickGrants`: clock values at both sides of the last that does not wrap. -/
theorem test_witness_first_tick : (build []).wf ∧ (build []).hasPacer = true ∧
    (0xFFFFFFEF : Word).toNat + 1000 / (build []).defaultRate < 2 ^ 32 ∧
    ¬ ((0xFFFFFFF0 : Word).toNat + 1000 / (build []).defaultRate < 2 ^ 32) := by decide

/-- `PacerIndependent`: hardware without the pacer, a pacer command with it, a command of another family. -/
theorem test_witness_pacer_independent :
    decode false 0x12 = .ok .clear ∧ { build [] with hasPacer := false }.hasPacer = false ∧
    (2 ≤ (2 : BitVec 8).toNat ∧ (6 : BitVec 8).toNat ≤ 6) ∧
    (∃ (i : Instr) (s t : State), i.wellFormed s.params.hasPacer = true ∧ i.isPacer = true ∧ exec i s = .next t) ∧
    (∃ (i : Instr) (s t : State), i.isPacer = false ∧ exec i s = .next t) :=
  ⟨by decide, by decide, by decide, ⟨.cpuload, start [], _, by decide, rfl, rfl⟩, ⟨.clear, start [], _, rfl, rfl⟩⟩

/-- `PacerTurnedAway`: without the pacer, and with operands just outside their ranges. -/
theorem test_witness_turned_away :
    (∃ s : State, Instr.wellFormed s.params.hasPacer .tick = false) ∧
    (∃ s : State, Instr.wellFormed s.params.hasPacer (.setrate 1001) = false ∧
      Instr.wellFormed s.params.hasPacer (.everyn 0) = false) :=
  ⟨⟨{ start [] with params := { build [] with hasPacer := false } }, by decide⟩, ⟨start [], by decide⟩⟩

end Sys2Proof.Machine.Tests
end

section
/-!
PROOFS. Reset establishes the invariant of a run (00_scope.md R9; 10_state.md R35, R36), one lemma for each of its parts.
-/

namespace Sys2Proof.Machine

/-- R9: the default build is a legal one. -/
theorem default_wf : Params.default.wf := by simp [Params.wf, Params.default]

/-- The frame period of a rate fits its register, so loading it into `EACH_MS` loses nothing. -/
theorem toNat_ofNat_period (rate : Nat) : (BitVec.ofNat 32 (1000 / rate)).toNat = 1000 / rate := by
  have hle : 1000 / rate ≤ 1000 := Nat.div_le_self 1000 rate
  rw [BitVec.toNat_ofNat, Nat.mod_eq_of_lt (by omega)]

/-- R9 bounds `DEFAULT_RATE` by 1000, so the period at reset is not 0 (46_frame_pacer.md R203). -/
theorem period_bounds {rate : Nat} (hpos : 1 ≤ rate) (hle : rate ≤ 1000) : 1 ≤ 1000 / rate ∧ 1000 / rate ≤ 1000 :=
  ⟨Nat.div_pos hle hpos, Nat.div_le_self 1000 rate⟩

/-- In SINGLE_BUFFER with `FB0` active and nothing in flight, every relation of R36 holds, whatever `CUR` holds. -/
theorem State.swapInv_of_single {s : State} (hmode : s.mode = .singleBuffer) (hactive : s.active = .fb0)
    (hbusy : s.sinkBusy = false) : s.SwapInv := by
  have hnotDouble : s.mode ≠ .doubleBuffer := by simp [hmode]
  have hnotBusy : s.sinkBusy ≠ true := by simp [hbusy]
  exact ⟨fun _ => hactive, fun h => absurd h hnotDouble, fun _ _ => hbusy, fun h => absurd h hnotDouble,
    fun _ h => absurd h hnotBusy⟩

/-- With no command in execution the latch is unconstrained. -/
theorem State.latchInv_of_idle {s : State} (hexec : s.execBit = false) : s.LatchInv :=
  fun h => absurd h (by simp [hexec])

theorem atReset_memoriesWf {p : Params} (n : Nat) (hasset : p.asset.wf p.assetSize) : (State.atReset p n).MemoriesWf :=
  ⟨wf_unspecified _ n, wf_unspecified _ (n + 1), hasset⟩

theorem atReset_swapInv (p : Params) (n : Nat) : (State.atReset p n).SwapInv :=
  State.swapInv_of_single rfl rfl rfl

theorem atReset_latchInv (p : Params) (n : Nat) : (State.atReset p n).LatchInv :=
  State.latchInv_of_idle rfl

theorem atReset_eachMs_toNat (p : Params) (n : Nat) : (State.atReset p n).eachMs.toNat = 1000 / p.defaultRate :=
  toNat_ofNat_period p.defaultRate

theorem atReset_pacerInv {p : Params} (n : Nat) (hp : p.wf) : (State.atReset p n).PacerInv := by
  obtain ⟨-, -, -, hpos, hle⟩ := hp
  unfold State.PacerInv
  rw [atReset_eachMs_toNat]
  exact period_bounds hpos hle

theorem atReset_inv {p : Params} (n : Nat) (hp : p.wf) (hasset : p.asset.wf p.assetSize) : (State.atReset p n).Inv :=
  ⟨hp, atReset_memoriesWf n hasset, atReset_swapInv p n, atReset_pacerInv n hp, atReset_latchInv p n⟩

/-- Settles O8: each part of the invariant holds of `State.atReset` of a legal build, and `State.reset` is the reset of the
default build, whose asset storage lists no byte. -/
theorem invReset : Obligations.InvReset :=
  ⟨atReset_inv 1 default_wf (wf_unspecified _ 0), fun _ n hp hasset => atReset_inv n hp hasset⟩

end Sys2Proof.Machine
end

section
/-!
PROOFS. What a command can do to the state, said once: the cases of `exec` as an inductive relation, and what every case leaves
unchanged. The statements about all steps (10_state.md R23 to R36) are then read off its cases.
-/

namespace Sys2Proof.Machine

/-! ### The cases of a command -/

/-- The commands that the sink can hold (45_swap_controller.md R184). -/
inductive CanHold : Instr → Prop
  | present (clr : Bool) : CanHold (.present clr)
  | waitp : CanHold .waitp

/-- The commands that answer in `RESULT` (10_state.md R24). -/
inductive CanAnswer : Instr → Prop
  | getpixel (x y : Half) : CanAnswer (.getpixel x y)
  | tick : CanAnswer .tick
  | cpuload : CanAnswer .cpuload
  | everyn (n : Half) : CanAnswer (.everyn n)

/-- Is the command a PRESENT? -/
def isPresent : Instr → Bool
  | .present _ => true
  | _ => false

/-- `Effect s i t`: the state `t` is one of the states that a step of the command `i` can leave from `s`. Only the cases of
PRESENT and ENABLEDB touch the swap controller (45_swap_controller.md R180). -/
inductive Effect (s : State) : Instr → State → Prop
  /-- The command waits for the sink (R184). -/
  | held {i : Instr} (hi : CanHold i) (hbusy : s.sinkBusy = true) : Effect s i s
  /-- The command drew in the active buffer; only DRAWCOMPRESSED moves the decoder registers (R31). -/
  | drew {i : Instr} (hi : isPresent i = false) (r : Rle) (f : Memory → Memory) : Effect s i ({ s with rle := r }.drawn f)
  /-- The contents of the active buffer are unspecified after an error (60_exceptions.md R234). -/
  | spoiled {i : Instr} (hi : isPresent i = false) (r : Rle) (e : ErrorKind) :
      Effect s i ({ s with rle := r }.spoil.raise e)
  /-- An error that leaves the buffers: no second buffer, or an illegal operand (60_exceptions.md R234). -/
  | raised {i : Instr} (hi : isPresent i = false) (e : ErrorKind) : Effect s i (s.raise e)
  /-- ENABLEDB in DOUBLE_BUFFER, or WAITP with the sink free (R181, R185). -/
  | ended {i : Instr} (hi : isPresent i = false) : Effect s i s.finish
  /-- `RESULT` is written; TICK writes pacer registers too, but not `EACH_MS` (46_frame_pacer.md R202). -/
  | answered {i : Instr} (hi : CanAnswer i) (nextStart lastStart lastDur frameCount : Word) (justRendered : Bool)
      (out : List Output) (v : Word) :
      Effect s i ({ s with nextStart, lastStart, lastDur, frameCount, justRendered, out }.answer v)
  /-- SETRATE with a legal rate (46_frame_pacer.md R201). -/
  | rated {rate : Half} (hlo : 1 ≤ zext16 rate) (hhi : zext16 rate ≤ 1000) :
      Effect s (.setrate rate) { s with eachMs := BitVec.ofNat 32 (1000 / zext16 rate) }.finish
  /-- ENABLEDB with a second buffer (R181). -/
  | doubled (hmode : s.mode = .singleBuffer) (hbuf1 : s.params.hasBuf1 = true) :
      Effect s .enabledb { s with mode := .doubleBuffer }.finish
  /-- PRESENT in SINGLE_BUFFER, step 1 (R182). -/
  | handedOff (clr : Bool) (hmode : s.mode = .singleBuffer) (hfree : s.sinkBusy = false) :
      Effect s (.present clr) { s.handOff .fb0 with phase := true }
  /-- PRESENT in SINGLE_BUFFER, step 2 (R182); `FB0` is left or cleared. -/
  | presented (clr : Bool) (hmode : s.mode = .singleBuffer) (hfree : s.sinkBusy = false) (m : Memory) :
      Effect s (.present clr) (s.setBuf .fb0 m).finish
  /-- PRESENT in DOUBLE_BUFFER (R182); the buffer that becomes active is left or cleared. -/
  | swapped (clr : Bool) (hmode : s.mode = .doubleBuffer) (hfree : s.sinkBusy = false) (m : Memory) :
      Effect s (.present clr) ({ s.handOff s.active with active := s.active.other }.setBuf s.active.other m).finish

/-- Replacing a buffer by itself changes nothing. -/
theorem State.setBuf_buf (s : State) (k : BufIdx) : s.setBuf k (s.buf k) = s := by cases k <;> rfl

theorem effect_presentSingle {s : State} (clr : Bool) (hmode : s.mode = .singleBuffer) :
    Effect s (.present clr) (presentSingle clr s) := by
  unfold presentSingle
  split_ifs with hbusy hphase hclr
  · exact .held (.present clr) hbusy
  · exact .presented clr hmode (by simpa using hbusy) Memory.cleared
  · have h := Effect.presented clr hmode (by simpa using hbusy) (s.buf .fb0)
    rwa [State.setBuf_buf] at h
  · exact .handedOff clr hmode (by simpa using hbusy)

theorem effect_presentDouble {s : State} (clr : Bool) (hmode : s.mode = .doubleBuffer) :
    Effect s (.present clr) (presentDouble clr s) := by
  unfold presentDouble
  split_ifs with hbusy hclr
  · exact .held (.present clr) hbusy
  · exact .swapped clr hmode (by simpa using hbusy) Memory.cleared
  · have h := Effect.swapped clr hmode (by simpa using hbusy) (s.buf s.active.other)
    rwa [← State.buf_handOff s s.active s.active.other, show (s.handOff s.active).buf s.active.other =
      { s.handOff s.active with active := s.active.other }.buf s.active.other from rfl, State.setBuf_buf] at h

/-- The three branches of TICK (46_frame_pacer.md R202) answer, and leave `EACH_MS`. -/
theorem effect_tick (s : State) :
    Effect s .tick (tickMeasure s) ∧ Effect s .tick (tickEarly s) ∧ Effect s .tick (tickGrant s) := by
  refine ⟨.answered .tick _ _ _ _ _ _ _, ?_, .answered .tick _ _ _ _ _ _ _⟩
  unfold tickEarly
  split_ifs
  · exact .answered .tick _ _ _ _ _ _ _
  · exact .answered .tick _ _ _ _ _ _ _

/-- Every step of a command is one of the cases. -/
theorem effect_of_exec {i : Instr} {s t : State} (h : exec i s = .next t) : Effect s i t := by
  cases i <;> injection h with h <;> subst h
  case setpixel => exact .drew rfl s.rle _
  case getpixel => exact .answered (.getpixel _ _) _ _ _ _ _ _ _
  case clear => exact .drew rfl s.rle _
  case hline => exact .drew rfl s.rle _
  case vline => exact .drew rfl s.rle _
  case line => exact .drew rfl s.rle _
  case fillrect => exact .drew rfl s.rle _
  case drawbitmap =>
    split
    · exact .drew rfl s.rle _
    · exact .spoiled rfl s.rle _
  case drawcompressed =>
    split
    · exact .drew rfl _ _
    · exact .spoiled rfl _ _
  case enabledb =>
    split
    next => exact .ended rfl
    next hmode =>
      split_ifs with hbuf1
      · exact .doubled hmode hbuf1
      · exact .raised rfl _
  case present =>
    split
    next hmode => exact effect_presentSingle _ hmode
    next hmode => exact effect_presentDouble _ hmode
  case waitp =>
    split_ifs with hbusy
    · exact .held .waitp hbusy
    · exact .ended rfl
  case setrate =>
    split_ifs with hlegal
    · obtain ⟨-, hlo, hhi⟩ := hlegal
      exact .rated hlo hhi
    · exact .raised rfl _
  case tick =>
    obtain ⟨hmeasure, hearly, hgrant⟩ := effect_tick s
    split_ifs
    · exact hmeasure
    · exact hearly
    · exact hgrant
    · exact .raised rfl _
  case cpuload =>
    split_ifs
    · exact .answered .cpuload _ _ _ _ _ _ _
    · exact .raised rfl _
  case everyn =>
    split
    · exact .answered (.everyn _) _ _ _ _ _ _ _
    · exact .raised rfl _

/-! ### What a command leaves unchanged -/

section
variable {s t : State} {i : Instr}

/-- No command writes the operand latch, the parameters, the clock input or the ports. -/
theorem Effect.frame (h : Effect s i t) :
    t.cur = s.cur ∧ t.params = s.params ∧ t.clkMs = s.clkMs ∧ t.host = s.host ∧ t.turns = s.turns := by
  cases h <;> exact ⟨rfl, rfl, rfl, rfl, rfl⟩

/-- No command begins another. -/
theorem Effect.execBit_of (h : Effect s i t) (ht : t.execBit = true) : s.execBit = true := by
  cases h
  case held => exact ht
  case handedOff => exact ht
  all_goals cases ht

theorem Effect.mode_cases (h : Effect s i t) : t.mode = s.mode ∨ i = .enabledb ∧ t.mode = .doubleBuffer := by
  cases h
  case doubled => exact .inr ⟨rfl, rfl⟩
  all_goals exact .inl rfl

theorem Effect.result_cases (h : Effect s i t) : t.result = s.result ∨ CanAnswer i := by
  cases h
  case answered hi => exact .inr hi
  all_goals exact .inl rfl

theorem Effect.eachMs_cases (h : Effect s i t) :
    t.eachMs = s.eachMs ∨ ∃ rate, (1 ≤ rate ∧ rate ≤ 1000) ∧ t.eachMs = BitVec.ofNat 32 (1000 / rate) := by
  cases h
  case rated hlo hhi => exact .inr ⟨_, ⟨hlo, hhi⟩, rfl⟩
  all_goals exact .inl rfl

/-- Every error flag that is set in `s` is set in `t`. -/
def State.ErrorsKept (s t : State) : Prop :=
  (s.errIllegal = true → t.errIllegal = true) ∧ (s.errAlloc = true → t.errAlloc = true) ∧
    (s.errStream = true → t.errStream = true) ∧ (s.errAsset = true → t.errAsset = true)

theorem State.errorsKept_rfl (s : State) : s.ErrorsKept s := ⟨id, id, id, id⟩

/-- Raising an error adds to the flags (60_exceptions.md R222). -/
theorem State.errorsKept_raise (s : State) (e : ErrorKind) : s.ErrorsKept (s.raise e) := by
  refine ⟨?_, ?_, ?_, ?_⟩ <;> intro h <;> simp [h]

theorem Effect.errorsKept (h : Effect s i t) : s.ErrorsKept t := by
  cases h
  case spoiled e _ => exact s.errorsKept_raise e
  case raised e _ => exact s.errorsKept_raise e
  all_goals exact s.errorsKept_rfl

/-- While a presentation is in flight no command changes which buffer is active: PRESENT is held. -/
theorem Effect.active_of_busy (h : Effect s i t) (hbusy : s.sinkBusy = true) : t.active = s.active := by
  cases h
  case swapped hfree _ => simp [hfree] at hbusy
  all_goals rfl

/-- No command writes the buffer that is not active after it: drawing writes the active one, and PRESENT clears the one that
it makes active, or `FB0`, which in SINGLE_BUFFER is the active one. -/
theorem Effect.buf_other (h : Effect s i t) (hs : s.SwapInv) : t.buf t.active.other = s.buf t.active.other := by
  cases h
  case drew r f _ => exact State.buf_drawn_other { s with rle := r } f
  case spoiled r e _ => exact State.buf_spoil_other { s with rle := r }
  case presented hmode _ m =>
    obtain ⟨hfb0, -⟩ := hs
    have hactive : s.active = .fb0 := hfb0 hmode
    have hne : s.active.other ≠ .fb0 := by simp [hactive, BufIdx.other]
    exact State.buf_setBuf_ne s .fb0 m hne
  case swapped m =>
    have hne : s.active.other.other ≠ s.active.other := BufIdx.other_ne _
    exact State.buf_setBuf_ne { s.handOff s.active with active := s.active.other } _ m hne
  all_goals rfl

end

/-! ### The steps other than reset -/

/-- `t` is `s` after a step that runs no command and is not reset: the ports, `SINK_BUSY`, the latch, `EXEC`, `PHASE` and
`ERR_ILLEGAL` are all that it can change, and `ERR_ILLEGAL` it can only set. -/
def State.RanNothing (s t : State) : Prop :=
  t = { s with sinkBusy := t.sinkBusy, cur := t.cur, execBit := t.execBit, phase := t.phase
               errIllegal := t.errIllegal, clkMs := t.clkMs, host := t.host, turns := t.turns } ∧
    (s.errIllegal = true → t.errIllegal = true)

/-- A step other than reset runs nothing, or is the step of the command in `CUR`. -/
theorem step_noReset_cases {s t : State} (hr : s.NoReset) (h : step s = .next t) :
    s.RanNothing t ∨ ∃ i, s.Runs i ∧ Effect { s with turns := s.turns.tail } i t := by
  rcases step_cases h with ⟨ts, -, rfl⟩ | ⟨ms, ts, -, rfl⟩ | ⟨ts, hturns, -⟩ | ⟨hcore, u, rfl, hcase⟩
  · exact .inl ⟨rfl, id⟩
  · exact .inl ⟨rfl, id⟩
  · exact absurd (by rw [hturns]; rfl) hr
  rcases hcase with ⟨-, -, rfl⟩ | ⟨-, w, ws, -, hissue⟩ | ⟨hexec, hrun⟩
  · exact .inl ⟨rfl, id⟩
  · rcases hissue with ⟨e, -, rfl⟩ | ⟨i, -, rfl⟩
    · exact .inl ⟨by simp [State.raise], fun herr => by simp [herr]⟩
    · exact .inl ⟨rfl, id⟩
  · rcases hrun with ⟨e, -, rfl⟩ | ⟨i, hd, hi⟩
    · exact .inl ⟨by simp [State.raise], fun herr => by simp [herr]⟩
    · exact .inr ⟨i, ⟨hcore, hexec, hd⟩, effect_of_exec hi⟩

section
variable {s t : State}

theorem State.RanNothing.mode (h : s.RanNothing t) : t.mode = s.mode := by rw [h.1]

theorem State.RanNothing.result (h : s.RanNothing t) : t.result = s.result := by rw [h.1]

theorem State.RanNothing.active (h : s.RanNothing t) : t.active = s.active := by rw [h.1]

theorem State.RanNothing.buf (h : s.RanNothing t) (k : BufIdx) : t.buf k = s.buf k := by rw [h.1]; rfl

theorem State.RanNothing.errorsKept (h : s.RanNothing t) : s.ErrorsKept t := by
  obtain ⟨hframe, hillegal⟩ := h
  refine ⟨hillegal, ?_, ?_, ?_⟩ <;> rw [hframe] <;> exact id

end

end Sys2Proof.Machine
end

section
/-!
PROOFS. Statements about every step (10_state.md): the error flags, `MODE`, `RESULT`, the port, the registers as the host reads
them, and the steps that run no command.
-/

namespace Sys2Proof.Machine

/-- Settles O11: no command clears a flag, nor does a step that runs none. -/
theorem errorsSticky : Obligations.ErrorsSticky := by
  intro s t hr h
  rcases step_noReset_cases hr h with hnothing | ⟨i, -, heffect⟩
  · exact hnothing.errorsKept
  · exact heffect.errorsKept

/-- Settles O12: of the cases of a command only that of ENABLEDB changes `MODE`, and it leads to DOUBLE_BUFFER. -/
theorem modeForward : Obligations.ModeForward := by
  refine ⟨fun s t hr h => ?_, fun i s t h hne => ?_⟩
  · rcases step_noReset_cases hr h with hnothing | ⟨i, hruns, heffect⟩
    · exact ⟨fun hdouble => hnothing.mode.trans hdouble, fun hne => absurd hnothing.mode hne⟩
    · rcases heffect.mode_cases with hmode | ⟨rfl, hmode⟩
      · exact ⟨fun hdouble => hmode.trans hdouble, fun hne => absurd hmode hne⟩
      · exact ⟨fun _ => hmode, fun _ => hruns⟩
  · obtain ⟨hi, -⟩ := (effect_of_exec h).mode_cases.resolve_left hne
    exact hi

/-- Settles O13: of the cases of a command only an answer changes `RESULT`. -/
theorem resultWriters : Obligations.ResultWriters := by
  refine ⟨fun i s t h hne => ?_, fun s t hr h hne => ?_⟩
  · cases (effect_of_exec h).result_cases.resolve_left hne with
    | getpixel x y => exact .inl ⟨x, y, rfl⟩
    | tick => exact .inr (.inl rfl)
    | cpuload => exact .inr (.inr (.inl rfl))
    | everyn n => exact .inr (.inr (.inr ⟨n, rfl⟩))
  · rcases step_noReset_cases hr h with hnothing | ⟨i, hruns, heffect⟩
    · exact absurd hnothing.result hne
    · cases heffect.result_cases.resolve_left hne with
      | getpixel x y => exact .inl ⟨x, y, hruns⟩
      | tick => exact .inr (.inl hruns)
      | cpuload => exact .inr (.inr (.inl hruns))
      | everyn n => exact .inr (.inr (.inr ⟨n, hruns⟩))

/-- What a step does at the command port (30_encoding.md R92): the offer and, while `EXEC = 1`, the latch stay, or with `EXEC = 0`
the word on offer goes into `CUR`. The parameters stay. -/
theorem step_port {s t : State} (h : step s = .next t) : t.params = s.params ∧
    (t.host = s.host ∧ (s.NoReset → s.execBit = true → t.cur = s.cur) ∨
      s.execBit = false ∧ ∃ w, s.host = w :: t.host ∧ t.cur = w) := by
  rcases step_cases h with ⟨ts, -, rfl⟩ | ⟨ms, ts, -, rfl⟩ | ⟨ts, hturns, rfl⟩ | ⟨-, u, rfl, hcase⟩
  · exact ⟨rfl, .inl ⟨rfl, fun _ _ => rfl⟩⟩
  · exact ⟨rfl, .inl ⟨rfl, fun _ _ => rfl⟩⟩
  · exact ⟨rfl, .inl ⟨rfl, fun hr _ => absurd (by rw [hturns]; rfl) hr⟩⟩
  rcases hcase with ⟨-, -, rfl⟩ | ⟨hidle, w, ws, hhost, hissue⟩ | ⟨-, hrun⟩
  · exact ⟨rfl, .inl ⟨rfl, fun _ _ => rfl⟩⟩
  · rcases hissue with ⟨e, -, rfl⟩ | ⟨i, -, rfl⟩
    · exact ⟨rfl, .inr ⟨hidle, w, hhost, rfl⟩⟩
    · exact ⟨rfl, .inr ⟨hidle, w, hhost, rfl⟩⟩
  · rcases hrun with ⟨e, -, rfl⟩ | ⟨i, -, hi⟩
    · exact ⟨rfl, .inl ⟨rfl, fun _ _ => rfl⟩⟩
    · obtain ⟨hcur, hparams, -, hhost, -⟩ := (effect_of_exec hi).frame
      exact ⟨hparams, .inl ⟨hhost, fun _ _ => hcur⟩⟩

/-- Settles O15: the port's rules are `step_port`, and a command leaves the latch, the parameters and the ports. -/
theorem busyPort : Obligations.BusyPort := by
  refine ⟨fun s t h => ?_, fun i s t h => (effect_of_exec h).frame⟩
  obtain ⟨hparams, ⟨hhost, hcur⟩ | ⟨hidle, htaken⟩⟩ := step_port h
  · exact ⟨fun _ => hhost, fun hne => absurd hhost hne, hcur, hparams⟩
  · have hnotExec : s.execBit ≠ true := by simp [hidle]
    exact ⟨fun hexec => absurd hexec hnotExec, fun _ => ⟨hidle, htaken⟩, fun _ hexec => absurd hexec hnotExec, hparams⟩

/-! ### Steps and registers -/

/-- Settles O5: both clauses are `step_core` at the value of `EXEC` and of the decoder that is given. -/
theorem stepRunsDecoded : Obligations.StepRunsDecoded := by
  refine ⟨fun s i ⟨hcore, hexec, hd⟩ => ?_, fun s w ws i hcore hexec hhost hd => ?_⟩
  · simp [step_core hcore, coreMove, decodeCur, hexec, hd]
  · simp [step_core hcore, coreMove, hostMove, hexec, hhost, hd, State.issue]

/-- Settles O55: the sink's and the clock's moves are read off `nextMove`, the idle block off `step_core`. -/
theorem stepsWithoutCommand : Obligations.StepsWithoutCommand := by
  refine ⟨fun s ts hturns => ?_, fun s ms ts hturns => ?_, fun s hcore hexec hhost => ?_⟩
  · simp [step, nextMove, hturns, State.sinkDone]
  · simp [step, nextMove, hturns]
  · simp [step_core hcore, coreMove, hostMove, hexec, hhost]

/-- Bit `i` of `STATUS` is entry `i` of its list of bits (R23), and 0 above the list. -/
theorem State.getLsbD_status (s : State) (i : Nat) : s.status.getLsbD i = s.statusBits.getD i false := by
  have hlength : s.statusBits.length = 12 := rfl
  by_cases hi : i < 32
  · simp [State.status, BitVec.getLsbD_ofBoolListLE, hi]
  · rw [BitVec.getLsbD_of_ge _ _ (by omega), List.getD_eq_default _ _ (by omega)]

/-- R25: registers 7 to 255 read as 0. -/
theorem State.readReg_of_ge (s : State) {n : BitVec 8} (hn : 7 ≤ n.toNat) : s.readReg n = 0 := by
  unfold State.readReg
  split
  case h_8 => rfl
  all_goals omega

/-- R25: without the pacer, registers 2 to 255 read as 0. -/
theorem State.readReg_of_no_pacer {s : State} (hp : s.params.hasPacer = false) {n : BitVec 8} (hn : 2 ≤ n.toNat) :
    s.readReg n = 0 := by
  have hpacer : ∀ v, s.pacerReg v = 0 := fun v => by simp [State.pacerReg, hp]
  unfold State.readReg
  split
  case h_1 => omega
  case h_2 => omega
  case h_8 => rfl
  all_goals exact hpacer _

/-- Settles O10: the bits of `STATUS` are the entries of its list, and a pacer register is its field or 0. -/
theorem registerFile : Obligations.RegisterFile := by
  intro s
  have hbit : ∀ i, (s.readReg 0).getLsbD i = s.statusBits.getD i false := s.getLsbD_status
  refine ⟨?_, rfl, fun hp => ?_, fun hp n hn => State.readReg_of_no_pacer hp hn, fun n hn => s.readReg_of_ge hn⟩
  · simp only [hbit]
    refine ⟨rfl, rfl, rfl, rfl, rfl, rfl, rfl, rfl, rfl, rfl, ?_⟩
    rintro i (rfl | rfl | hi)
    · rfl
    · rfl
    · exact List.getD_eq_default _ _ hi
  · have hpacer : ∀ v, s.pacerReg v = v := fun v => by simp [State.pacerReg, hp]
    exact ⟨hpacer _, hpacer _, hpacer _, hpacer _, hpacer _⟩

end Sys2Proof.Machine
end

section
/-!
PROOFS. Which buffer a step can write (10_state.md R26, R27; 45_swap_controller.md R186).
-/

namespace Sys2Proof.Machine

/-- Settles O14: neither a command nor a step that runs none writes the buffer that is not active after it. -/
theorem onlyActiveWritten : Obligations.OnlyActiveWritten := by
  intro s t hs hr h
  rcases step_noReset_cases hr h with hnothing | ⟨i, -, heffect⟩
  · exact hnothing.buf _
  · exact heffect.buf_other hs

/-- While a presentation is in flight a PRESENT is held. -/
theorem Effect.eq_of_present_of_busy {s t : State} {clr : Bool} (h : Effect s (.present clr) t)
    (hbusy : s.sinkBusy = true) : t = s := by
  cases h
  case held => rfl
  case handedOff hfree => simp [hbusy] at hfree
  case presented hfree _ => simp [hbusy] at hfree
  case swapped hfree _ => simp [hbusy] at hfree
  all_goals contradiction

theorem step_active_of_busy {s t : State} (hr : s.NoReset) (hbusy : s.sinkBusy = true) (h : step s = .next t) :
    t.active = s.active := by
  rcases step_noReset_cases hr h with hnothing | ⟨i, -, heffect⟩
  · exact hnothing.active
  · exact heffect.active_of_busy hbusy

/-- Settles O44: in DOUBLE_BUFFER the buffer in flight is the one that is not active, and stays so while the sink is busy; in
SINGLE_BUFFER the command in `CUR` is the PRESENT that waits for the sink, and it writes nothing. -/
theorem nonInterference : Obligations.NonInterference := by
  intro s t hs hr hbusy h
  have hother := onlyActiveWritten s t hs hr h
  obtain ⟨-, -, -, hdouble, hsingle⟩ := hs
  cases hmode : s.mode with
  | doubleBuffer =>
    rw [hdouble hmode hbusy, ← step_active_of_busy hr hbusy h]
    exact hother
  | singleBuffer =>
    obtain ⟨-, -, clr, hpresent⟩ := hsingle hmode hbusy
    rcases step_noReset_cases hr h with hnothing | ⟨i, ⟨-, -, hd⟩, heffect⟩
    · exact hnothing.buf _
    · obtain rfl : i = .present clr := by simpa [hpresent] using hd.symm
      rw [heffect.eq_of_present_of_busy hbusy]
      rfl

end Sys2Proof.Machine
end

section
/-!
PROOFS. Every step keeps the invariant of a run (10_state.md R36; 46_frame_pacer.md R203), part by part.
-/

namespace Sys2Proof.Machine

section
variable {s t : State} {i : Instr}

/-- The relations of R36 survive a change of anything else, as long as nothing new comes in flight, and in SINGLE_BUFFER nothing
is. -/
theorem State.SwapInv.of_free (hs : s.SwapInv) (hparams : t.params = s.params) (hactive : t.active = s.active)
    (hmode : t.mode = s.mode) (hbuf : t.sinkBuf = s.sinkBuf) (hbusy : t.sinkBusy = true → s.sinkBusy = true)
    (hfree : t.mode = .singleBuffer → t.sinkBusy = false) : t.SwapInv := by
  obtain ⟨hfb0, hbuf1, -, hother, -⟩ := hs
  unfold State.SwapInv
  rw [hparams, hactive, hbuf]
  refine ⟨fun h => hfb0 (hmode ▸ h), fun h => hbuf1 (hmode ▸ h), fun h _ => hfree h,
    fun h ht => hother (hmode ▸ h) (hbusy ht), fun h ht => ?_⟩
  simp [hfree h] at ht

/-- In SINGLE_BUFFER nothing is in flight while a command other than PRESENT runs. -/
theorem State.SwapInv.free_of_not_present (hs : s.SwapInv) (hd : decode s.params.hasPacer s.cur = .ok i)
    (hi : isPresent i = false) (hmode : s.mode = .singleBuffer) : s.sinkBusy = false := by
  obtain ⟨-, -, -, -, hflight⟩ := hs
  by_contra hbusy
  obtain ⟨-, -, clr, hpresent⟩ := hflight hmode (by simpa using hbusy)
  obtain rfl : i = .present clr := by simpa [hpresent] using hd.symm
  cases hi

theorem CanAnswer.isPresent_eq (h : CanAnswer i) : isPresent i = false := by cases h <;> rfl

/-- A step of the command in `CUR` keeps the relations of R36. -/
theorem Effect.swapInv (h : Effect s i t) (hs : s.SwapInv) (hexec : s.execBit = true)
    (hd : decode s.params.hasPacer s.cur = .ok i) : t.SwapInv := by
  have hfree := hs.free_of_not_present hd
  cases h
  case held => exact hs
  case drew hi => exact hs.of_free rfl rfl rfl rfl id (hfree hi)
  case spoiled hi => exact hs.of_free rfl rfl rfl rfl id (hfree hi)
  case raised hi => exact hs.of_free rfl rfl rfl rfl id (hfree hi)
  case ended hi => exact hs.of_free rfl rfl rfl rfl id (hfree hi)
  case answered hi => exact hs.of_free rfl rfl rfl rfl id (hfree hi.isPresent_eq)
  case rated => exact hs.of_free rfl rfl rfl rfl id (hfree rfl)
  case doubled hmode hbuf1 =>
    have hidle : s.sinkBusy = false := hfree rfl hmode
    exact ⟨nofun, fun _ => hbuf1, nofun, fun _ ht => absurd (hidle.symm.trans ht) nofun, nofun⟩
  case handedOff clr hmode _ =>
    obtain ⟨hfb0, hbuf1, -⟩ := hs
    exact ⟨hfb0, hbuf1, fun _ hidle => absurd (hexec.symm.trans hidle) nofun,
      fun hdouble => absurd (hmode.symm.trans hdouble) nofun, fun _ _ => ⟨rfl, rfl, clr, hd⟩⟩
  case presented hmode hidle _ =>
    obtain ⟨hfb0, -⟩ := hs
    exact State.swapInv_of_single hmode (hfb0 hmode) hidle
  case swapped hmode _ _ =>
    obtain ⟨-, hbuf1, -⟩ := hs
    have hnotSingle : s.mode ≠ .singleBuffer := by simp [hmode]
    exact ⟨fun h => absurd h hnotSingle, hbuf1, fun h => absurd h hnotSingle, fun _ _ => (BufIdx.other_other _).symm,
      fun h => absurd h hnotSingle⟩

theorem Effect.pacerInv (h : Effect s i t) (hs : s.PacerInv) : t.PacerInv := by
  unfold State.PacerInv
  rcases h.eachMs_cases with hsame | ⟨rate, ⟨hlo, hhi⟩, hrate⟩
  · rw [hsame]
    exact hs
  · rw [hrate, toNat_ofNat_period]
    exact period_bounds hlo hhi

/-- A command that goes on still has its word in `CUR`. -/
theorem Effect.latchInv (h : Effect s i t) (hs : s.LatchInv) : t.LatchInv := by
  obtain ⟨hcur, hparams, -⟩ := h.frame
  intro ht
  rw [hcur, hparams]
  exact hs (h.execBit_of ht)

/-- A step of the command in `CUR` keeps the invariant. -/
theorem inv_exec (hs : s.Inv) (hexec : s.execBit = true) (hd : decode s.params.hasPacer s.cur = .ok i)
    (h : exec i s = .next t) : t.Inv := by
  obtain ⟨hwf, hmem, hswap, hpacer, hlatch⟩ := hs
  have heffect := effect_of_exec h
  obtain ⟨-, hparams, -⟩ := heffect.frame
  have hheight : s.params.height % 8 = 0 := by
    obtain ⟨-, ⟨-, -, h8⟩, -⟩ := hwf
    exact h8
  exact ⟨hparams ▸ hwf, memoriesWf_exec hheight hmem h, heffect.swapInv hswap hexec hd, heffect.pacerInv hpacer,
    heffect.latchInv hlatch⟩

/-- The sink's completion keeps the invariant (45_swap_controller.md R183). -/
theorem inv_sinkDone (hs : s.Inv) : s.sinkDone.Inv := by
  obtain ⟨hwf, hmem, hswap, hpacer, hlatch⟩ := hs
  exact ⟨hwf, hmem, hswap.of_free rfl rfl rfl rfl nofun fun _ => rfl, hpacer, hlatch⟩

theorem inv_resetEvent (hs : s.Inv) : s.resetEvent.Inv := by
  obtain ⟨hwf, ⟨-, -, hasset⟩, -⟩ := hs
  exact atReset_inv s.freeCount hwf hasset

/-- With `EXEC = 0` nothing is in flight in SINGLE_BUFFER (R36 (c)). -/
theorem State.SwapInv.free_of_idle (hs : s.SwapInv) (hidle : s.execBit = false) (hmode : s.mode = .singleBuffer) :
    s.sinkBusy = false := by
  obtain ⟨-, -, hfree, -, -⟩ := hs
  exact hfree hmode hidle

/-- The issue of an illegal word keeps the invariant (30_encoding.md R87). -/
theorem inv_issue_illegal (hs : s.Inv) (hidle : s.execBit = false) (w : CommandWord) (ws : List CommandWord) :
    ({ s with host := ws, cur := w }.raise .illegal).Inv := by
  obtain ⟨hwf, hmem, hswap, hpacer, -⟩ := hs
  exact ⟨hwf, hmem, hswap.of_free rfl rfl rfl rfl id (hswap.free_of_idle hidle), hpacer, State.latchInv_of_idle rfl⟩

/-- The issue of a legal word keeps the invariant (30_encoding.md R80). -/
theorem inv_issue (hs : s.Inv) (hidle : s.execBit = false) {w : CommandWord} (hd : decode s.params.hasPacer w = .ok i)
    (ws : List CommandWord) : ({ s with host := ws }.issue w).Inv := by
  obtain ⟨hwf, hmem, hswap, hpacer, -⟩ := hs
  exact ⟨hwf, hmem, hswap.of_free rfl rfl rfl rfl id (hswap.free_of_idle hidle), hpacer, fun _ => ⟨i, hd⟩⟩

end

/-- Settles O7, by the cases of a step; that the word in `CUR` is illegal cannot happen within the invariant. -/
theorem invStep : Obligations.InvStep := by
  intro s t hs h
  rcases step_cases h with ⟨ts, -, rfl⟩ | ⟨ms, ts, -, rfl⟩ | ⟨ts, -, rfl⟩ | ⟨-, u, rfl, hcase⟩
  · exact inv_sinkDone (s := { s with turns := ts }) hs
  · exact hs
  · exact inv_resetEvent (s := { s with turns := ts }) hs
  have hu : ({ s with turns := s.turns.tail } : State).Inv := hs
  rcases hcase with ⟨-, -, rfl⟩ | ⟨hidle, w, ws, -, hissue⟩ | ⟨hexec, hrun⟩
  · exact hu
  · rcases hissue with ⟨e, -, rfl⟩ | ⟨i, hd, rfl⟩
    · exact inv_issue_illegal hu hidle w ws
    · exact inv_issue hu hidle hd ws
  · rcases hrun with ⟨e, he, -⟩ | ⟨i, hd, hi⟩
    · obtain ⟨-, -, -, -, hlatch⟩ := hs
      obtain ⟨i, hd⟩ := hlatch hexec
      simp [he] at hd
    · exact inv_exec hu hexec hd hi

end Sys2Proof.Machine
end

section
/-!
PROOFS. The buffer in flight keeps the frame that was handed over with it (45_swap_controller.md R187; 10_state.md R65): only
PRESENT hands a frame over, and nothing draws in the buffer in flight.
-/

namespace Sys2Proof.Machine

section
variable {s t : State} {i : Instr}

/-! ### The last frame handed over -/

/-- An idle request is no frame (46_frame_pacer.md R205). -/
@[simp] theorem State.lastPaint_emit_idleReq (s : State) : (s.emit .idleReq).lastPaint = s.lastPaint := by
  simp [State.lastPaint, Output.isPaint]

@[simp] theorem State.lastPaint_handOff (s : State) (k : BufIdx) :
    (s.handOff k).lastPaint = some (.paintScreen k ((s.buf k).bytes s.params.fbSize)) := by
  simp [State.lastPaint, Output.isPaint]

/-- TICK emits idle requests only. -/
theorem lastPaint_execState_tick (s : State) : (execState .tick s).lastPaint = s.lastPaint := by
  have hearly : (tickEarly s).lastPaint = s.lastPaint := by
    unfold tickEarly
    split_ifs
    · exact s.lastPaint_emit_idleReq
    · rfl
  simp only [execState, exec, execTick]
  split_ifs
  · rfl
  · exact hearly
  · rfl
  · rfl

/-- No command that answers in `RESULT` hands a frame over. -/
theorem CanAnswer.lastPaint_execState (hi : CanAnswer i) (s : State) : (execState i s).lastPaint = s.lastPaint := by
  cases hi with
  | getpixel x y => rfl
  | tick => exact lastPaint_execState_tick s
  | cpuload =>
    simp only [execState, exec, execCpuload]
    split_ifs <;> rfl
  | everyn n =>
    simp only [execState, exec, execEveryn]
    split <;> rfl

/-- Only PRESENT hands a frame over (45_swap_controller.md R182). -/
theorem lastPaint_exec (h : exec i s = .next t) (hi : isPresent i = false) : t.lastPaint = s.lastPaint := by
  cases effect_of_exec h
  case answered hanswer =>
    rw [← exec_eq_next_iff.1 h]
    exact hanswer.lastPaint_execState s
  case handedOff => cases hi
  case presented => cases hi
  case swapped => cases hi
  all_goals rfl

/-! ### What a command does to the buffer in flight -/

/-- Only PRESENT touches the sink registers (45_swap_controller.md R180). -/
theorem Effect.sink_eq (h : Effect s i t) (hi : isPresent i = false) :
    t.sinkBusy = s.sinkBusy ∧ t.sinkBuf = s.sinkBuf := by
  cases h
  case handedOff => cases hi
  case swapped => cases hi
  all_goals exact ⟨rfl, rfl⟩

/-- No command but PRESENT writes the buffer in flight: in SINGLE_BUFFER none is, and in DOUBLE_BUFFER it is the one that is not
active. -/
theorem Effect.buf_inFlight (h : Effect s i t) (hs : s.SwapInv) (hd : decode s.params.hasPacer s.cur = .ok i)
    (hi : isPresent i = false) (hbusy : s.sinkBusy = true) : t.buf s.sinkBuf = s.buf s.sinkBuf := by
  have hkept := h.buf_other hs
  obtain ⟨-, -, -, hother, -⟩ := id hs
  cases hmode : s.mode with
  | singleBuffer => simp [hs.free_of_not_present hd hi hmode] at hbusy
  | doubleBuffer =>
    rw [hother hmode hbusy, ← h.active_of_busy hbusy]
    exact hkept

/-! ### The frame is kept -/

/-- A step of PRESENT: it is held, or it hands over the frame as it stands, or it ends with the sink free. -/
theorem Effect.frameInv_present {clr : Bool} (h : Effect s (.present clr) t) (hf : s.FrameInv) : t.FrameInv := by
  cases h
  case held => exact hf
  case handedOff => exact fun _ => s.lastPaint_handOff .fb0
  case presented hfree _ => exact fun hbusy => absurd (hfree.symm.trans hbusy) nofun
  case swapped m =>
    intro _
    have hbuf : ({ s.handOff s.active with active := s.active.other }.setBuf s.active.other m).buf s.active =
        s.buf s.active :=
      (State.buf_setBuf_ne { s.handOff s.active with active := s.active.other } _ m (BufIdx.ne_other _)).trans
        (s.buf_handOff s.active s.active)
    calc (s.handOff s.active).lastPaint
        = some (.paintScreen s.active ((s.buf s.active).bytes s.params.fbSize)) := s.lastPaint_handOff s.active
      _ = _ := by rw [← hbuf]; rfl
  all_goals contradiction

/-- A step of any other command leaves the sink registers, the last frame and the buffer in flight. -/
theorem frameInv_exec_of_not_present (h : exec i s = .next t) (hs : s.SwapInv)
    (hd : decode s.params.hasPacer s.cur = .ok i) (hi : isPresent i = false) (hf : s.FrameInv) : t.FrameInv := by
  have heffect := effect_of_exec h
  obtain ⟨hbusy, hbuf⟩ := heffect.sink_eq hi
  obtain ⟨-, hparams, -⟩ := heffect.frame
  intro ht
  have hflight : s.sinkBusy = true := hbusy ▸ ht
  rw [lastPaint_exec h hi, hbuf, hparams, heffect.buf_inFlight hs hd hi hflight]
  exact hf hflight

/-- A step of the command in `CUR` keeps the frame in flight. -/
theorem frameInv_exec (h : exec i s = .next t) (hs : s.SwapInv) (hd : decode s.params.hasPacer s.cur = .ok i)
    (hf : s.FrameInv) : t.FrameInv := by
  cases hi : isPresent i with
  | false => exact frameInv_exec_of_not_present h hs hd hi hf
  | true =>
    cases i with
    | present clr => exact (effect_of_exec h).frameInv_present hf
    | _ => cases hi

end

/-- Settles O45, by the cases of a step: the sink's completion and reset leave nothing in flight, the other moves that run no
command leave the buffers and the events, and a command is `frameInv_exec`. -/
theorem frameInFlight : Obligations.FrameInFlight := by
  refine ⟨fun s t hs hf h => ?_, nofun⟩
  obtain ⟨-, -, hswap, -, -⟩ := hs
  rcases step_cases h with ⟨ts, -, rfl⟩ | ⟨ms, ts, -, rfl⟩ | ⟨ts, -, rfl⟩ | ⟨-, u, rfl, hcase⟩
  · exact nofun
  · exact hf
  · exact nofun
  rcases hcase with ⟨-, -, rfl⟩ | ⟨-, w, ws, -, hissue⟩ | ⟨-, hrun⟩
  · exact hf
  · rcases hissue with ⟨e, -, rfl⟩ | ⟨i, -, rfl⟩
    · exact hf
    · exact hf
  · rcases hrun with ⟨e, -, rfl⟩ | ⟨i, hd, hi⟩
    · exact hf
    · exact frameInv_exec (s := { s with turns := s.turns.tail }) hi hswap hd hf

/-- The invariants are met with a presentation in flight: PRESENT right after reset hands `FB0` over. -/
theorem exists_inv_frameInv_inFlight : ∃ s : State, s.Inv ∧ s.FrameInv ∧ s.sinkBusy = true := by
  have hwf : Params.default.asset.wf Params.default.assetSize := wf_unspecified _ 0
  have hd : decode Params.default.hasPacer (encode (.present false)) = .ok (.present false) := by decide
  have hs : (State.reset.issue (encode (.present false))).Inv := inv_issue (atReset_inv 1 default_wf hwf) rfl hd []
  have h := exec_eq_next (.present false) (State.reset.issue (encode (.present false)))
  have hf : (State.reset.issue (encode (.present false))).FrameInv := nofun
  obtain ⟨-, -, hswap, -, -⟩ := id hs
  exact ⟨_, inv_exec hs rfl hd h, frameInv_exec h hswap hd hf, rfl⟩

end Sys2Proof.Machine
end

section
/-!
PROOFS. The pixel map is onto the (byte, bit) pairs (20_memory.md R51); that it stays inside the buffer and is injective is in
Laws/Pixel.lean.
-/

namespace Sys2Proof

/-- A legal build has `BANDS` bytes of 8 pixels in each column (00_scope.md R7, R8). -/
theorem Params.eight_mul_bands {p : Params} (h8 : p.height % 8 = 0) : 8 * p.bands = p.height :=
  Nat.mul_div_cancel' (Nat.dvd_of_mod_eq_zero h8)

/-- The pixel of byte `i` and bit `b`: column `i mod WIDTH` of band `i div WIDTH`. -/
theorem Params.pixel_of_byte_bit {p : Params} (h8 : p.height % 8 = 0) (hw : 0 < p.width) {i b : Nat}
    (hi : i < p.fbSize) (hb : b < 8) :
    ∃ x y, p.onScreen x y ∧ p.byteIndex x y = i ∧ bitIndex y = b := by
  have hband : i / p.width < p.bands := Nat.div_lt_of_lt_mul hi
  have hcolumn : i % p.width < p.width := Nat.mod_lt i hw
  have hheight := Params.eight_mul_bands h8
  have hy : ((8 * (i / p.width) + b : Nat) : Int) / 8 = (i / p.width : Nat) := by omega
  refine ⟨(i % p.width : Nat), (8 * (i / p.width) + b : Nat), ⟨by omega, by omega⟩, ?_, ?_⟩
  · rw [Params.byteIndex, hy]
    have hsum : i % p.width + i / p.width * p.width = i := Nat.mod_add_div' i p.width
    exact_mod_cast hsum
  · unfold bitIndex
    omega

/-- Settles O16: the formula, the bounds and injectivity are the laws of the map, `Params.pixel_of_byte_bit` is surjectivity, and
`pixelGet` reads that bit. -/
theorem pixelMap : Obligations.PixelMap := by
  rintro p ⟨⟨hw, -⟩, ⟨-, -, h8⟩, -, -⟩
  refine ⟨fun x y h => ⟨Params.byteIndex_cast h, Params.byteIndex_lt h8 h, ?_, bitIndex_lt y⟩,
    fun x y x' y' h h' hi hb => Params.pixel_map_inj h h' hi hb,
    fun i b hi hb => Params.pixel_of_byte_bit h8 hw hi hb, fun s k x y hp h => ?_⟩
  · unfold bitIndex
    omega
  · subst hp
    exact if_pos h

end Sys2Proof
end

section
/-!
PROOFS. The two commands that read asset storage, when they fail (43_bitmap_raw.md R149; 44_bitmap_rle.md R167, R168;
60_exceptions.md R234): what is precise after the error, and which error the decoder can meet.
-/

namespace Sys2Proof.Machine

/-! ### A spoiled buffer -/

/-- `t` is `s` after `ERR_STREAM` or `ERR_ASSET`, named by `e`: the active buffer holds unspecified contents of its own size, and
all else is as R234 says. -/
def State.SpoiledBy (s t : State) (e : ErrorKind) : Prop :=
  t = { s with fb0 := t.fb0, fb1 := t.fb1, freeCount := t.freeCount, execBit := false
               errStream := s.errStream || decide (e = .stream), errAsset := s.errAsset || decide (e = .asset) } ∧
    t.buf s.active.other = s.buf s.active.other ∧ (t.buf s.active).wf s.params.fbSize

theorem State.spoiledBy_spoil_raise (s : State) {e : ErrorKind} (he : e = .stream ∨ e = .asset) :
    s.SpoiledBy (s.spoil.raise e) e := by
  refine ⟨?_, ?_, ?_⟩
  · rcases he with rfl | rfl <;> simp [State.raise, State.spoil, State.draw, State.setBuf]
  · rw [State.buf_raise, State.buf_spoil_other]
  · rw [State.buf_raise, State.buf_spoil_active]
    exact wf_unspecified _ _

/-! ### DRAWBITMAP -/

theorem exec_drawbitmap_of_assetBytes_none {x y w h : Half} {src : Word} {c : Colour} {s : State}
    (hread : assetBytes s.params (zext32 src) (zext16 w * ceil8 (zext16 h)) = none) :
    exec (.drawbitmap x y src w h c) s = .next (s.spoil.raise .asset) := by
  simp [exec, execDrawbitmap, hread]

/-- Settles O32: the bytes are not all inside asset storage, so the command spoils the buffer and raises `ERR_ASSET`. -/
theorem drawbitmapAssetError : Obligations.DrawbitmapAssetError := by
  intro x y src w h c s hpos hout
  have hread : assetBytes s.params (zext32 src) (zext16 w * ceil8 (zext16 h)) = none := by
    rw [assetBytes_eq]
    exact if_neg (by unfold zext32 zext16; omega)
  obtain ⟨hframe, hother, hwf⟩ := s.spoiledBy_spoil_raise (e := .asset) (.inr rfl)
  exact ⟨_, exec_drawbitmap_of_assetBytes_none hread, by simpa using hframe, hother, hwf⟩

/-! ### The errors of the decoder -/

section
variable {p : Params} {src : Nat}

/-- The result is a value, or one of the two errors of a stream (44_bitmap_rle.md R168; 20_memory.md R56). -/
def Decoded.RaisesOnly {α : Type} : Decoded α → Prop
  | .ok _ _ => True
  | .err e _ => e = .stream ∨ e = .asset

/-- A part of the decoder hands on the error of the part that it calls. -/
theorem Decoded.RaisesOnly.err_of_eq {α β : Type} {d : Decoded α} {e : ErrorKind} {r : Rle} (hd : d.RaisesOnly)
    (h : d = .err e r) : (Decoded.err e r : Decoded β).RaisesOnly := by
  subst h
  exact hd

theorem nextBit_raisesOnly (r : Rle) : (nextBit p src r).RaisesOnly := by
  unfold nextBit
  split
  · split
    · exact .inr rfl
    · trivial
  · trivial

theorem nextBits_raisesOnly (n : Nat) (r : Rle) : (nextBits p src n r).RaisesOnly := by
  induction n generalizing r with
  | zero => trivial
  | succ n ih =>
    rw [nextBits]
    split
    next herr => exact (nextBit_raisesOnly r).err_of_eq herr
    next b r1 _ =>
      split
      next herr => exact (ih r1).err_of_eq herr
      next => trivial

theorem readSelector_raisesOnly (left n : Nat) (r : Rle) : (readSelector p src left n r).RaisesOnly := by
  induction left generalizing n r with
  | zero =>
    rw [readSelector]
    split
    next herr => exact (nextBit_raisesOnly r).err_of_eq herr
    next => trivial
    next => exact .inl rfl
  | succ left ih =>
    rw [readSelector]
    split
    next herr => exact (nextBit_raisesOnly r).err_of_eq herr
    next => trivial
    next r1 _ => exact ih (n + 2) r1

theorem readRun_raisesOnly (r : Rle) : (readRun p src r).RaisesOnly := by
  unfold readRun
  split
  next herr => exact (readSelector_raisesOnly 8 1 r).err_of_eq herr
  next n r1 _ =>
    split
    next herr => exact (nextBits_raisesOnly n r1).err_of_eq herr
    next => trivial

theorem decodeRuns_raisesOnly (fuel remaining : Nat) (colour : Bool) (r : Rle) (out : List Byte) :
    (decodeRuns p src fuel remaining colour r out).RaisesOnly := by
  induction fuel generalizing remaining colour r out with
  | zero => trivial
  | succ fuel ih =>
    rw [decodeRuns]
    split
    next => trivial
    next =>
      split
      next herr => exact (readRun_raisesOnly r).err_of_eq herr
      next =>
        split
        next => exact .inl rfl
        next => exact ih _ _ _ _

theorem readHeader_raisesOnly (r : Rle) : (readHeader p src r).RaisesOnly := by
  unfold readHeader
  split
  next herr => exact (nextBits_raisesOnly 8 r).err_of_eq herr
  next r1 _ =>
    split
    next herr => exact (nextBits_raisesOnly 8 r1).err_of_eq herr
    next r2 _ =>
      split
      next herr => exact (nextBits_raisesOnly 1 r2).err_of_eq herr
      next => trivial

theorem decodeStream_raisesOnly : (decodeStream p src).RaisesOnly := by
  unfold decodeStream
  split
  next herr => exact (readHeader_raisesOnly Rle.fresh).err_of_eq herr
  next =>
    split
    next herr => exact (decodeRuns_raisesOnly _ _ _ _ _).err_of_eq herr
    next => trivial

/-! ### DRAWCOMPRESSED -/

/-- The first bit of a stream is in its byte 0, so a stream that starts outside asset storage fails at once. -/
theorem nextBit_fresh_of_outside (h : p.assetSize ≤ src) : nextBit p src Rle.fresh = .err .asset Rle.fresh := by
  have hread : assetRead p (src + Rle.fresh.pos.toNat) = none := if_neg (by simpa [Rle.fresh] using h)
  rw [nextBit, hread]
  rfl

theorem decodeStream_of_outside (h : p.assetSize ≤ src) : decodeStream p src = .err .asset Rle.fresh := by
  have hwidth : nextBits p src 8 Rle.fresh = .err .asset Rle.fresh := by
    rw [nextBits, nextBit_fresh_of_outside h]
  rw [decodeStream, readHeader, hwidth]

end

theorem exec_drawcompressed_of_err {x y : Half} {src : Word} {c : Colour} {s : State} {e : ErrorKind} {r : Rle}
    (hd : decodeStream s.params (zext32 src) = .err e r) :
    exec (.drawcompressed x y src c) s = .next ({ s with rle := r }.spoil.raise e) := by
  simp [exec, execDrawcompressed, hd]

/-- Settles O38: the decoder raises `ERR_STREAM` or `ERR_ASSET`, and the command then spoils the buffer. -/
theorem drawcompressedError : Obligations.DrawcompressedError := by
  refine ⟨fun x y src c s e r hd => ?_, fun p src h => ⟨_, decodeStream_of_outside h⟩⟩
  have he : e = .stream ∨ e = .asset := by
    have hraises := decodeStream_raisesOnly (p := s.params) (src := src.toNat)
    rwa [hd] at hraises
  exact ⟨he, _, exec_drawcompressed_of_err hd, State.spoiledBy_spoil_raise { s with rle := r } he⟩

end Sys2Proof.Machine
end

section
/-!
PROOFS. The decoder and the encoder are inverse (30_encoding.md R86): a legal word is the packing of the fields its format uses,
and `encode` packs the same fields.
-/

namespace Sys2Proof

/-! ### Legal commands -/

theorem Instr.wellFormed_iff {hasPacer : Bool} {i : Instr} :
    i.wellFormed hasPacer = true ↔ (i.isPacer = true → hasPacer = true) ∧ i.operandsLegal = true := by
  cases hasPacer <;> simp [Instr.wellFormed]

/-- The pacer's rows are the rows of its commands (46_frame_pacer.md R200). -/
@[simp] theorem Instr.isPacer_opcode (i : Instr) : i.opcode.isPacer = i.isPacer := by cases i <;> rfl

/-! ### The fields of a legal word -/

/-- The must-be-zero rule as a list of equations. -/
theorem Format.unusedZero_iff {f : Format} {w : CommandWord} :
    f.unusedZero w = true ↔ w.rsv0 = 0 ∧ w.rsv1 = 0 ∧ (f.usesCol = true ∨ w.col = 0) ∧ (f.usesClr = true ∨ w.clr = 0) ∧
      (f.usesA = true ∨ w.a = 0) ∧ (f.usesB = true ∨ w.b = 0) ∧ (f.usesC = true ∨ w.c = 0) ∧
      (f.usesD = true ∨ w.d = 0) ∧ (f.usesSrc = true ∨ w.src = 0) := by
  simp [Format.unusedZero, and_assoc]

/-- The field's value where the format uses it, else 0. -/
def used {n : Nat} (uses : Bool) (v : BitVec n) : BitVec n := bif uses then v else 0

theorem used_eq {n : Nat} {uses : Bool} {v : BitVec n} (h : uses = true ∨ v = 0) : used uses v = v := by
  cases uses
  · exact (h.resolve_left nofun).symm
  · rfl

/-- The packing of the fields of `w` that the format uses, with the given opcode. -/
def Format.packUsed (f : Format) (opc : BitVec 8) (w : CommandWord) : CommandWord :=
  .pack opc (used f.usesCol w.col) (used f.usesClr w.clr) (used f.usesA w.a) (used f.usesB w.b) (used f.usesC w.c)
    (used f.usesD w.d) (used f.usesSrc w.src)

/-- A word that obeys the must-be-zero rule is the packing of the fields that its format uses. -/
theorem Format.packUsed_eq {f : Format} {w : CommandWord} (h : f.unusedZero w = true) : f.packUsed w.opc w = w := by
  obtain ⟨hrsv0, hrsv1, hcol, hclr, ha, hb, hc, hd, hsrc⟩ := Format.unusedZero_iff.1 h
  rw [Format.packUsed, used_eq hcol, used_eq hclr, used_eq ha, used_eq hb, used_eq hc, used_eq hd, used_eq hsrc]
  exact CommandWord.pack_fields hrsv0 hrsv1

/-! ### The rows of the decoder -/

section
variable {hasPacer : Bool} {w : CommandWord} {op : Opcode} {i : Instr}

theorem decode_of_opc (hopc : w.opc = op.bits) : decode hasPacer w =
    if op.isPacer && !hasPacer then .error .noPacer
    else if op.format.unusedZero w then decodeRow op w else .error .unusedField := by
  rw [decode, hopc, Opcode.ofBits?_bits]

theorem decode_eq_ok_iff_row : decode hasPacer w = .ok i ↔
    ∃ op : Opcode, w.opc = op.bits ∧ (op.isPacer = true → hasPacer = true) ∧ op.format.unusedZero w = true ∧
      decodeRow op w = .ok i := by
  constructor
  · intro h
    cases hop : Opcode.ofBits? w.opc with
    | none => simp [decode, hop] at h
    | some op =>
      have hopc := Opcode.bits_of_ofBits? hop
      rw [decode_of_opc hopc] at h
      split_ifs at h with hpacer hzero
      exact ⟨op, hopc, by simpa using hpacer, hzero, h⟩
  · rintro ⟨op, hopc, hpacer, hzero, hrow⟩
    rw [decode_of_opc hopc, if_neg (by simpa using hpacer), if_pos hzero, hrow]

theorem withColour_eq_ok_iff {f : Colour → Instr} : withColour w f = .ok i ↔ ∃ c : Colour, w.col = c.bits ∧ f c = i := by
  constructor
  · intro h
    unfold withColour at h
    split at h
    next c hc => exact ⟨c, Colour.bits_of_ofBits? hc, by injection h⟩
    next => cases h
  · rintro ⟨c, hc, rfl⟩
    rw [withColour, hc, Colour.ofBits?_bits]

/-- `CLR` is one bit, so the flag of PRESENT keeps all of it (30_encoding.md R81). -/
theorem ofBool_decide_eq_one : ∀ b : BitVec 1, BitVec.ofBool (decide (b = 1)) = b := by decide

/-- `i` is a legal command of the row `op`, and its word packs the fields of `w` that the row uses. -/
def Opcode.Reads (op : Opcode) (w : CommandWord) (i : Instr) : Prop :=
  i.opcode = op ∧ i.operandsLegal = true ∧ encode i = op.format.packUsed op.bits w

theorem Opcode.Reads.of_withColour {f : Colour → Instr} (h : withColour w f = .ok i)
    (hread : ∀ c : Colour, w.col = c.bits → op.Reads w (f c)) : op.Reads w i := by
  obtain ⟨c, hc, rfl⟩ := withColour_eq_ok_iff.1 h
  exact hread c hc

/-- What the decoder reads at a row. -/
theorem reads_of_decodeRow (h : decodeRow op w = .ok i) : op.Reads w i := by
  cases op
  case setpixel | hline | vline | line | fillrect | drawbitmap | drawcompressed =>
    exact .of_withColour h fun c hc => ⟨rfl, rfl, by rw [encode, ← hc]; rfl⟩
  case present =>
    injection h with h
    subst h
    exact ⟨rfl, rfl, by rw [encode, ofBool_decide_eq_one]; rfl⟩
  case setrate =>
    rw [decodeRow] at h
    split_ifs at h with hrange
    injection h with h
    subst h
    exact ⟨rfl, decide_eq_true hrange, rfl⟩
  case everyn =>
    rw [decodeRow] at h
    split_ifs at h with hzero
    injection h with h
    subst h
    exact ⟨rfl, decide_eq_true (Nat.pos_of_ne_zero hzero), rfl⟩
  case getpixel | clear | enabledb | waitp | tick | cpuload =>
    injection h with h
    subst h
    exact ⟨rfl, rfl, rfl⟩

end

/-! ### The rows of the encoder -/

/-- The row of a command reads every operand back. -/
theorem decodeRow_encode {i : Instr} (h : i.operandsLegal = true) : decodeRow i.opcode (encode i) = .ok i := by
  cases i
  case setpixel | hline | vline | line | fillrect | drawbitmap | drawcompressed =>
    exact withColour_eq_ok_iff.2 ⟨_, CommandWord.col_pack .., by simp [encode]⟩
  case present clr =>
    have hclr : decide (BitVec.ofBool clr = 1) = clr := by cases clr <;> rfl
    simp only [Instr.opcode, decodeRow, encode, CommandWord.clr_pack, hclr]
  case setrate =>
    have hrange := of_decide_eq_true h
    simp [Instr.opcode, decodeRow, encode, hrange]
  case everyn =>
    have hpos := of_decide_eq_true h
    simp [Instr.opcode, decodeRow, encode, Nat.ne_of_gt hpos]
  case getpixel => simp [Instr.opcode, decodeRow, encode]
  case clear | enabledb | waitp | tick | cpuload => rfl

/-- Settles O1: the encoded word has the opcode of its row and obeys the must-be-zero rule, and the row reads the operands. -/
theorem decodeEncode : Obligations.DecodeEncode := by
  intro hasPacer i hi
  obtain ⟨hpacer, hlegal⟩ := Instr.wellFormed_iff.1 hi
  obtain ⟨hopc, hzero⟩ := Laws.MustBeZero.all i
  exact decode_eq_ok_iff_row.2 ⟨i.opcode, hopc, by rwa [Instr.isPacer_opcode], hzero, decodeRow_encode hlegal⟩

/-- Settles O2: the word is the packing of the fields that its row uses, and `encode` packs what the row read. -/
theorem encodeDecode : Obligations.EncodeDecode := by
  intro hasPacer w i h
  obtain ⟨op, hopc, hpacer, hzero, hrow⟩ := decode_eq_ok_iff_row.1 h
  obtain ⟨rfl, hlegal, hpack⟩ := reads_of_decodeRow hrow
  rw [Instr.isPacer_opcode] at hpacer
  refine ⟨?_, Instr.wellFormed_iff.2 ⟨hpacer, hlegal⟩⟩
  rw [hpack, ← hopc]
  exact Format.packUsed_eq hzero

/-- The legal words are the words of the legal commands. -/
theorem decode_eq_ok_iff {hasPacer : Bool} {w : CommandWord} {i : Instr} :
    decode hasPacer w = .ok i ↔ encode i = w ∧ i.wellFormed hasPacer = true := by
  constructor
  · exact encodeDecode hasPacer w i
  · rintro ⟨rfl, hi⟩
    exact decodeEncode hasPacer i hi

/-- Settles O4: each word is the one that the encoder gives for its command. -/
theorem specWords : Obligations.SpecWords := by
  refine ⟨?_, ?_, ?_, ?_, ?_, ?_, ?_, ?_, ?_, ?_, ?_⟩ <;> exact decode_eq_ok_iff.2 ⟨by decide, by decide⟩

end Sys2Proof
end

section
/-!
PROOFS. The illegal words (30_encoding.md R87): the masks of the opcode table R85 state the must-be-zero rule R86, so the
conditions of R87 are those that the decoder checks.
-/

namespace Sys2Proof

/-- No two rows have one number (R85). -/
theorem Opcode.eq_of_bits_eq {op op' : Opcode} (h : op.bits = op'.bits) : op = op' := by
  simpa using congrArg Opcode.ofBits? h

theorem Colour.ofBits?_eq_none_iff {b : BitVec 2} : Colour.ofBits? b = none ↔ b = 3 := by decide +revert

namespace Machine

/-! ### A row of the opcode table -/

/-- The bits that a row of R85 fixes: all but those of the fields that its format uses. -/
def fixedBits (f : Format) : CommandWord :=
  ~~~CommandWord.pack 0 (.fill 2 f.usesCol) (.fill 1 f.usesClr) (.fill 16 f.usesA) (.fill 16 f.usesB) (.fill 16 f.usesC)
    (.fill 16 f.usesD) (.fill 32 f.usesSrc)

/-- The row of R85 of an opcode, from its number and its format. -/
def tableRow (op : Opcode) : TableRow :=
  ⟨op.bits.toNat, .pack op.bits 0 0 0 0 0 0 0, fixedBits op.format⟩

theorem opcodeTable_eq : opcodeTable = [Opcode.setpixel, .getpixel, .clear, .hline, .vline, .line, .fillrect, .drawbitmap,
    .drawcompressed, .enabledb, .present, .waitp, .setrate, .tick, .cpuload, .everyn].map tableRow := by decide

theorem mem_opcodeTable_iff {r : TableRow} : r ∈ opcodeTable ↔ ∃ op, tableRow op = r := by
  rw [opcodeTable_eq, List.mem_map]
  constructor
  · rintro ⟨op, -, hop⟩
    exact ⟨op, hop⟩
  · rintro ⟨op, hop⟩
    exact ⟨op, by cases op <;> decide, hop⟩

/-! ### The masks state the must-be-zero rule -/

/-- A word is a packing exactly where its fields are the packed ones and its reserved fields are zero (R81). -/
theorem eq_pack_iff {w : CommandWord} {opc : BitVec 8} {col : BitVec 2} {clr : BitVec 1} {a b c d : Half} {src : Word} :
    w = .pack opc col clr a b c d src ↔
      w.opc = opc ∧ w.rsv0 = 0 ∧ w.rsv1 = 0 ∧ w.col = col ∧ w.clr = clr ∧ w.a = a ∧ w.b = b ∧ w.c = c ∧ w.d = d ∧
        w.src = src := by
  constructor
  · rintro rfl
    simp
  · rintro ⟨rfl, hrsv0, hrsv1, rfl, rfl, rfl, rfl, rfl, rfl, rfl⟩
    exact (CommandWord.pack_fields hrsv0 hrsv1).symm

/-- A field of a word without the bits of a mask. -/
theorem field_and_not (w m : CommandWord) {start len : Nat} (h : start + len ≤ 128) :
    (w &&& ~~~m).extractLsb' start len = w.extractLsb' start len &&& ~~~m.extractLsb' start len := by
  ext i hi
  simp [show start + i < 128 by omega]

/-- The fields of a word without the bits of a mask (R81). -/
theorem fields_and_not (w m : CommandWord) :
    (w &&& ~~~m).opc = w.opc &&& ~~~m.opc ∧ (w &&& ~~~m).rsv0 = w.rsv0 &&& ~~~m.rsv0 ∧
    (w &&& ~~~m).rsv1 = w.rsv1 &&& ~~~m.rsv1 ∧ (w &&& ~~~m).col = w.col &&& ~~~m.col ∧
    (w &&& ~~~m).clr = w.clr &&& ~~~m.clr ∧ (w &&& ~~~m).a = w.a &&& ~~~m.a ∧ (w &&& ~~~m).b = w.b &&& ~~~m.b ∧
    (w &&& ~~~m).c = w.c &&& ~~~m.c ∧ (w &&& ~~~m).d = w.d &&& ~~~m.d ∧ (w &&& ~~~m).src = w.src &&& ~~~m.src := by
  refine ⟨?_, ?_, ?_, ?_, ?_, ?_, ?_, ?_, ?_, ?_⟩ <;> exact field_and_not w m (by decide)

/-- An empty mask leaves the whole field. -/
theorem and_not_zero {n : Nat} (v : BitVec n) : v &&& ~~~(0 : BitVec n) = v := by simp

/-- A field without the bits that a format uses of it is zero where the format uses it, or where it was zero. -/
theorem and_not_fill_eq_zero_iff {n : Nat} {v : BitVec n} {uses : Bool} :
    v &&& ~~~BitVec.fill n uses = 0 ↔ uses = true ∨ v = 0 := by
  cases uses <;> simp [BitVec.fill, BitVec.neg_one_eq_allOnes]

/-- The word agrees with its row on the bits that the row fixes. -/
theorem and_fixedBits_eq_iff {w : CommandWord} {f : Format} {opc : BitVec 8} :
    w &&& fixedBits f = .pack opc 0 0 0 0 0 0 0 ↔ w.opc = opc ∧ f.unusedZero w = true := by
  rw [fixedBits, eq_pack_iff, Format.unusedZero_iff]
  simp only [fields_and_not, CommandWord.opc_pack, CommandWord.rsv0_pack, CommandWord.rsv1_pack, CommandWord.col_pack,
    CommandWord.clr_pack, CommandWord.a_pack, CommandWord.b_pack, CommandWord.c_pack, CommandWord.d_pack,
    CommandWord.src_pack, and_not_zero, and_not_fill_eq_zero_iff]

/-- A word has the shape of a row of R85 exactly where the row has its opcode and it obeys the must-be-zero rule (R86). -/
theorem fitsTable_iff {w : CommandWord} :
    fitsTable w ↔ ∃ op : Opcode, w.opc = op.bits ∧ op.format.unusedZero w = true := by
  constructor
  · rintro ⟨r, hr, -, hfixed⟩
    obtain ⟨op, rfl⟩ := mem_opcodeTable_iff.1 hr
    exact ⟨op, and_fixedBits_eq_iff.1 hfixed⟩
  · rintro ⟨op, hopc, hzero⟩
    exact ⟨tableRow op, mem_opcodeTable_iff.2 ⟨op, rfl⟩, by rw [hopc, tableRow], and_fixedBits_eq_iff.2 ⟨hopc, hzero⟩⟩

theorem opc_mem_opcodeTable_iff {w : CommandWord} :
    w.opc.toNat ∈ opcodeTable.map TableRow.opc ↔ ∃ op : Opcode, w.opc = op.bits := by
  simp only [List.mem_map, mem_opcodeTable_iff, tableRow]
  constructor
  · rintro ⟨_, ⟨op, rfl⟩, hopc⟩
    exact ⟨op, BitVec.eq_of_toNat_eq hopc.symm⟩
  · rintro ⟨op, hopc⟩
    exact ⟨_, ⟨op, rfl⟩, by rw [hopc]⟩

/-! ### The conditions of R87, row by row -/

theorem bits_mem_pacerOpcs_iff (op : Opcode) : op.bits.toNat ∈ pacerOpcs ↔ op.isPacer = true := by
  cases op <;> decide

theorem bits_mem_opcsWithColour_iff (op : Opcode) : op.bits.toNat ∈ opcsWithColour ↔ op.format.usesCol = true := by
  cases op <;> decide

section
variable {hasPacer : Bool} {w : CommandWord} {op : Opcode}

/-- R87 (d), (e), (f): an operand that the row does not take. -/
def BadOperand (op : Opcode) (w : CommandWord) : Prop :=
  (op.format.usesCol = true ∧ w.col = 3) ∨ (op = .setrate ∧ (w.c.toNat = 0 ∨ w.c.toNat > 1000)) ∨
    (op = .everyn ∧ w.c.toNat = 0)

theorem illegalWord_iff_of_opc (hopc : w.opc = op.bits) : IllegalWord hasPacer w ↔
    (op.isPacer = true ∧ hasPacer = false) ∨ op.format.unusedZero w = false ∨ BadOperand op w := by
  have hknown : w.opc.toNat ∈ opcodeTable.map TableRow.opc := opc_mem_opcodeTable_iff.2 ⟨op, hopc⟩
  have hshape : fitsTable w ↔ op.format.unusedZero w = true := by
    rw [fitsTable_iff]
    constructor
    · rintro ⟨op', hopc', hzero⟩
      rwa [Opcode.eq_of_bits_eq (hopc.symm.trans hopc')]
    · exact fun hzero => ⟨op, hopc, hzero⟩
  have hrate : w.opc.toNat = 0x50 ↔ op = .setrate := by rw [hopc]; cases op <;> decide
  have hevery : w.opc.toNat = 0x53 ↔ op = .everyn := by rw [hopc]; cases op <;> decide
  unfold IllegalWord
  rw [hshape, hrate, hevery, hopc, bits_mem_pacerOpcs_iff, bits_mem_opcsWithColour_iff, ← hopc]
  simp [hknown, BadOperand]

theorem decode_eq_error_iff_of_opc (hopc : w.opc = op.bits) : (∃ e, decode hasPacer w = .error e) ↔
    (op.isPacer = true ∧ hasPacer = false) ∨ op.format.unusedZero w = false ∨ ∃ e, decodeRow op w = .error e := by
  rw [decode_of_opc hopc]
  split_ifs with hpacer hzero
  · exact iff_of_true ⟨_, rfl⟩ (.inl (by simpa using hpacer))
  · have hallowed : ¬(op.isPacer = true ∧ hasPacer = false) := by simpa using hpacer
    simp [hallowed, hzero]
  · exact iff_of_true ⟨_, rfl⟩ (.inr (.inl (by simpa using hzero)))

theorem withColour_eq_error_iff {f : Colour → Instr} : (∃ e, withColour w f = .error e) ↔ w.col = 3 := by
  rw [withColour, ← Colour.ofBits?_eq_none_iff]
  cases Colour.ofBits? w.col <;> simp

/-- The decoder turns away at a row exactly the operands of R87 (d), (e), (f). -/
theorem decodeRow_eq_error_iff : (∃ e, decodeRow op w = .error e) ↔ BadOperand op w := by
  unfold BadOperand
  cases op
  case setpixel | hline | vline | line | fillrect | drawbitmap | drawcompressed =>
    simp [decodeRow, withColour_eq_error_iff, Opcode.format]
  case setrate =>
    rw [decodeRow]
    split_ifs with hrange
    · have hin : ¬(w.c.toNat = 0 ∨ w.c.toNat > 1000) := by omega
      simp [Opcode.format, hin]
    · have hout : w.c.toNat = 0 ∨ w.c.toNat > 1000 := by omega
      simp [Opcode.format, hout]
  case everyn =>
    rw [decodeRow]
    split_ifs with hzero
    · simp [Opcode.format, hzero]
    · simp [Opcode.format, hzero]
  case getpixel | clear | enabledb | present | waitp | tick | cpuload =>
    simp [decodeRow, Opcode.format]

end

/-- The decoder rejects exactly the words of R87. -/
theorem decode_eq_error_iff {hasPacer : Bool} {w : CommandWord} :
    (∃ e, decode hasPacer w = .error e) ↔ IllegalWord hasPacer w := by
  by_cases hknown : ∃ op : Opcode, w.opc = op.bits
  · obtain ⟨op, hopc⟩ := hknown
    rw [decode_eq_error_iff_of_opc hopc, illegalWord_iff_of_opc hopc, decodeRow_eq_error_iff]
  · have hillegal : IllegalWord hasPacer w := .inl fun hmem => hknown (opc_mem_opcodeTable_iff.1 hmem)
    have hnone : Opcode.ofBits? w.opc = none :=
      Option.eq_none_iff_forall_ne_some.2 fun op hop => hknown ⟨op, Opcode.bits_of_ofBits? hop⟩
    exact iff_of_true ⟨.unknownOpcode, by rw [decode, hnone]⟩ hillegal

/-- Settles O3: the first clause is `decode_eq_error_iff`; the host's move with an illegal word raises `ERR_ILLEGAL` at once. -/
theorem illegalWords : Obligations.IllegalWords := by
  refine ⟨fun hasPacer w => decode_eq_error_iff, fun s w ws hcore hidle hhost hillegal => ?_⟩
  obtain ⟨e, he⟩ := decode_eq_error_iff.2 hillegal
  simp [step_core hcore, coreMove, hostMove, hidle, hhost, he, State.raise]

end Machine

end Sys2Proof
end

section
/-!
PROOFS. The Frame Pacer touches nothing else of the block, and nothing else touches it (46_frame_pacer.md R200); a pacer command
that has no legal word acts as an illegal word (30_encoding.md R87).
-/

namespace Sys2Proof

/-! ### Which commands are legal -/

theorem Instr.wellFormed_setrate {hasPacer : Bool} {rate : Half} :
    (Instr.setrate rate).wellFormed hasPacer = true ↔ hasPacer = true ∧ 1 ≤ zext16 rate ∧ zext16 rate ≤ 1000 := by
  simp [Instr.wellFormed, Instr.isPacer, Instr.operandsLegal, zext16]

theorem Instr.wellFormed_tick {hasPacer : Bool} : Instr.tick.wellFormed hasPacer = true ↔ hasPacer = true := by
  simp [Instr.wellFormed, Instr.isPacer, Instr.operandsLegal]

theorem Instr.wellFormed_cpuload {hasPacer : Bool} : Instr.cpuload.wellFormed hasPacer = true ↔ hasPacer = true := by
  simp [Instr.wellFormed, Instr.isPacer, Instr.operandsLegal]

theorem Instr.wellFormed_everyn {hasPacer : Bool} {n : Half} :
    (Instr.everyn n).wellFormed hasPacer = true ↔ hasPacer = true ∧ 1 ≤ zext16 n := by
  simp [Instr.wellFormed, Instr.isPacer, Instr.operandsLegal, zext16]

/-- Every command of another family has a legal word on every build. -/
theorem Instr.wellFormed_of_not_pacer {i : Instr} (hasPacer : Bool) (hi : i.isPacer = false) :
    i.wellFormed hasPacer = true := by
  cases i
  case setrate | tick | cpuload | everyn => cases hi
  all_goals simp [Instr.wellFormed, Instr.isPacer, Instr.operandsLegal]

namespace Machine

/-! ### A pacer command -/

/-- The outcome of a pacer command with a legal word. -/
def pacerState (i : Instr) (s : State) : State :=
  match i with
  | .setrate rate => { s with eachMs := BitVec.ofNat 32 (1000 / zext16 rate) }.finish
  | .tick =>
    if s.justRendered then tickMeasure s else if s.clkMs.toNat < s.nextStart.toNat then tickEarly s else tickGrant s
  | .cpuload => s.answer (cpuLoad s)
  | .everyn n => s.answer (if s.frameCount.toInt % (zext16 n : Int) = 0 then 1 else 0)
  | _ => s

/-- A pacer command runs where it has a legal word, and is else turned away (log 11). -/
theorem exec_pacer {i : Instr} (hi : i.isPacer = true) (s : State) : exec i s =
    .next (if i.wellFormed s.params.hasPacer = true then pacerState i s else s.raise .illegal) := by
  cases i
  case setrate => exact congrArg Host.Outcome.next (if_congr Instr.wellFormed_setrate.symm rfl rfl)
  case tick => exact congrArg Host.Outcome.next (if_congr Instr.wellFormed_tick.symm rfl rfl)
  case cpuload => exact congrArg Host.Outcome.next (if_congr Instr.wellFormed_cpuload.symm rfl rfl)
  case everyn => exact congrArg Host.Outcome.next (if_congr Instr.wellFormed_everyn.symm rfl rfl)
  all_goals cases hi

/-- Settles O54: a command without a legal word is a pacer command, and it is turned away. -/
theorem pacerTurnedAway : Obligations.PacerTurnedAway := by
  intro i s hi
  have hpacer : i.isPacer = true := by
    by_contra hother
    simp [Instr.wellFormed_of_not_pacer s.params.hasPacer (by simpa using hother)] at hi
  rw [exec_pacer hpacer, if_neg (by simp [hi])]
  simp [State.raise]

/-- `t` is `s` after a command that wrote the pacer, `RESULT`, `EXEC` and no event but the idle request (R200, R205). -/
def State.OnlyPaced (s t : State) : Prop :=
  t = { s with eachMs := t.eachMs, nextStart := t.nextStart, lastStart := t.lastStart, lastDur := t.lastDur
               frameCount := t.frameCount, justRendered := t.justRendered, result := t.result, out := t.out
               execBit := false } ∧
    (t.out = s.out ∨ t.out = s.out ++ [.idleReq])

theorem State.onlyPaced_tickEarly (s : State) : s.OnlyPaced (tickEarly s) := by
  unfold tickEarly
  split_ifs
  · exact ⟨rfl, .inr rfl⟩
  · exact ⟨rfl, .inl rfl⟩

theorem State.onlyPaced_pacerState {i : Instr} (hi : i.isPacer = true) (s : State) : s.OnlyPaced (pacerState i s) := by
  cases i
  case setrate => exact ⟨rfl, .inl rfl⟩
  case tick =>
    unfold pacerState
    split_ifs
    · exact ⟨rfl, .inl rfl⟩
    · exact s.onlyPaced_tickEarly
    · exact ⟨rfl, .inl rfl⟩
  case cpuload => exact ⟨rfl, .inl rfl⟩
  case everyn => exact ⟨rfl, .inl rfl⟩
  all_goals cases hi

/-! ### The other commands -/

/-- The registers of the pacer (10_state.md R32). -/
structure PacerRegs where
  eachMs       : Word
  nextStart    : Word
  lastStart    : Word
  lastDur      : Word
  frameCount   : Word
  justRendered : Bool

/-- The pacer's registers as they stand. -/
def State.pacer (s : State) : PacerRegs :=
  ⟨s.eachMs, s.nextStart, s.lastStart, s.lastDur, s.frameCount, s.justRendered⟩

/-- `s` with other values in the registers of the pacer. -/
def State.withPacer (s : State) (r : PacerRegs) : State :=
  { s with eachMs := r.eachMs, nextStart := r.nextStart, lastStart := r.lastStart, lastDur := r.lastDur
           frameCount := r.frameCount, justRendered := r.justRendered }

section
variable (s : State) (r : PacerRegs)

@[simp] theorem State.withPacer_params : (s.withPacer r).params = s.params := rfl
@[simp] theorem State.withPacer_mode : (s.withPacer r).mode = s.mode := rfl
@[simp] theorem State.pacer_withPacer : (s.withPacer r).pacer = r := rfl
@[simp] theorem State.withPacer_self : s.withPacer s.pacer = s := rfl

theorem presentSingle_withPacer (clr : Bool) :
    presentSingle clr (s.withPacer r) = (presentSingle clr s).withPacer r := by
  simp only [presentSingle, apply_ite State.finish, apply_ite (State.withPacer · r)]
  rfl

theorem presentDouble_withPacer (clr : Bool) :
    presentDouble clr (s.withPacer r) = (presentDouble clr s).withPacer r := by
  simp only [presentDouble, apply_ite State.finish, apply_ite (State.withPacer · r)]
  rfl

/-- No command of another family reads the pacer, nor writes it. -/
theorem execState_withPacer {i : Instr} (hi : i.isPacer = false) :
    execState i (s.withPacer r) = (execState i s).withPacer r := by
  cases i
  case setpixel | getpixel | clear | hline | vline | line | fillrect => rfl
  case drawbitmap =>
    simp only [execState, exec, execDrawbitmap, State.withPacer_params]
    split <;> rfl
  case drawcompressed =>
    simp only [execState, exec, execDrawcompressed, State.withPacer_params]
    split <;> rfl
  case enabledb =>
    simp only [execState, exec, execEnabledb, State.withPacer_mode, State.withPacer_params]
    split
    · rfl
    · rw [apply_ite (State.withPacer · r)]
      rfl
  case present clr =>
    simp only [execState, exec, execPresent, State.withPacer_mode]
    split
    · exact presentSingle_withPacer s r clr
    · exact presentDouble_withPacer s r clr
  case waitp => exact (apply_ite (State.withPacer · r) (s.sinkBusy = true) s s.finish).symm
  case setrate | tick | cpuload | everyn => cases hi

/-- A command of another family leaves the registers of the pacer: it gives the same state with them put in again. -/
theorem pacer_execState {i : Instr} (hi : i.isPacer = false) : (execState i s).pacer = s.pacer := by
  have h := execState_withPacer s s.pacer hi
  rw [State.withPacer_self] at h
  rw [h, State.pacer_withPacer]

end

/-- Settles O53: the four clauses are `decode_eq_ok_iff`, the register file, `exec_pacer` and `execState_withPacer`. -/
theorem pacerIndependent : Obligations.PacerIndependent := by
  refine ⟨fun w i h => ?_, fun s hp => ⟨fun n hn _ => State.readReg_of_no_pacer hp hn, ?_⟩,
    fun i s t hlegal hi h => ?_, fun i s t a b c d e j hi h => ?_⟩
  · obtain ⟨-, hlegal⟩ := decode_eq_ok_iff.1 h
    obtain ⟨hpacer, -⟩ := Instr.wellFormed_iff.1 hlegal
    simpa using hpacer
  · have hbit : s.statusBits.getD 5 false = (s.params.hasPacer && s.justRendered) := rfl
    exact (s.getLsbD_status 5).trans (by rw [hbit, hp, Bool.false_and])
  · rw [exec_pacer hi, if_pos hlegal] at h
    injection h with h
    exact h ▸ s.onlyPaced_pacerState hi
  · obtain rfl := exec_eq_next_iff.1 h
    have hkept := pacer_execState s hi
    injection hkept with heach hnext hstart hdur hcount hrendered
    exact ⟨exec_eq_next_iff.2 (execState_withPacer s ⟨a, b, c, d, e, j⟩ hi), heach, hnext, hstart, hdur, hcount, hrendered⟩

end Machine

end Sys2Proof
end

section
/-!
PROOFS. Two canonical framebuffers over one background with the same on-screen pixels are equal, since every byte of a framebuffer
is made of pixels (20_memory.md R51, R59); so laws of `PixelOp` follow from what it does to each pixel (40_pixel_access.md R106).
-/

namespace Sys2Proof

/-! ### A framebuffer is its pixels -/

/-- A canonical memory lists no byte outside its size. -/
theorem Memory.read_of_le {size : Nat} {m : Memory} (hm : m.wf size) {a : Nat} (ha : size ≤ a) :
    m.read a = m.unlisted a := by
  obtain ⟨-, hcells⟩ := hm
  unfold Memory.read
  split
  next v hv => exact absurd (hcells _ (mem_of_lookup_eq_some hv)).1 (by simpa using ha)
  next => rfl

section
variable {p : Params} {m n : Memory}

/-- The bytes of a framebuffer are equal where its on-screen pixels are. -/
theorem read_eq_of_pixelGet_eq (h8 : p.height % 8 = 0) {a : Nat} (ha : a < p.fbSize)
    (h : ∀ x y, p.onScreen x y → pixelGet p x y m = pixelGet p x y n) : m.read a = n.read a := by
  have hw : 0 < p.width := Nat.pos_of_ne_zero fun hw => by simp [Params.fbSize, hw] at ha
  refine BitVec.eq_of_getLsbD_eq fun b hb => ?_
  obtain ⟨x, y, hs, rfl, rfl⟩ := Params.pixel_of_byte_bit h8 hw ha hb
  simpa [pixelGet, hs] using h x y hs

theorem Memory.ext_pixelGet (h8 : p.height % 8 = 0) (hm : m.wf p.fbSize) (hn : n.wf p.fbSize)
    (hb : m.background = n.background) (h : ∀ x y, p.onScreen x y → pixelGet p x y m = pixelGet p x y n) : m = n := by
  refine Memory.ext_read hm hn hb fun a => ?_
  by_cases ha : a < p.fbSize
  · exact read_eq_of_pixelGet_eq h8 ha h
  · have hout : p.fbSize ≤ a := Nat.le_of_not_lt ha
    rw [Memory.read_of_le hm hout, Memory.read_of_le hn hout, Memory.unlisted, Memory.unlisted, hb]

end

/-! ### The laws of `PixelOp` (R106) -/

/-- `SET` and `CLEAR` do not look at the pixel. -/
theorem Colour.applyBit_applyBit {c : Colour} (hc : c ≠ .toggle) (b : Bool) : c.applyBit (c.applyBit b) = c.applyBit b := by
  cases c
  case toggle => exact absurd rfl hc
  all_goals rfl

theorem Colour.applyBit_toggle_toggle (b : Bool) : Colour.toggle.applyBit (Colour.toggle.applyBit b) = b :=
  Bool.not_not b

section
variable {p : Params} {m : Memory}

theorem pixelOp_comm (h8 : p.height % 8 = 0) (hm : m.wf p.fbSize) (c c' : Colour) {x y x' y' : Int}
    (hne : (x, y) ≠ (x', y')) :
    pixelOp p c x y (pixelOp p c' x' y' m) = pixelOp p c' x' y' (pixelOp p c x y m) := by
  refine Memory.ext_pixelGet h8 (wf_pixelOp h8 _ _ _ (wf_pixelOp h8 _ _ _ hm))
    (wf_pixelOp h8 _ _ _ (wf_pixelOp h8 _ _ _ hm)) (by simp) fun px py hs => ?_
  simp only [pixelGet_pixelOp _ _ _ _ _ hs]
  by_cases hp : px = x ∧ py = y
  · obtain ⟨rfl, rfl⟩ := hp
    have hp' : ¬(px = x' ∧ py = y') := by simpa using hne
    simp [hp']
  · simp only [if_neg hp]

theorem pixelOp_idem (h8 : p.height % 8 = 0) (hm : m.wf p.fbSize) {c : Colour} (hc : c ≠ .toggle) (x y : Int) :
    pixelOp p c x y (pixelOp p c x y m) = pixelOp p c x y m := by
  refine Memory.ext_pixelGet h8 (wf_pixelOp h8 _ _ _ (wf_pixelOp h8 _ _ _ hm)) (wf_pixelOp h8 _ _ _ hm) (by simp)
    fun px py hs => ?_
  rw [pixelGet_pixelOp _ _ _ _ _ hs, pixelGet_pixelOp _ _ _ _ _ hs]
  split_ifs
  · exact Colour.applyBit_applyBit hc _
  · rfl

theorem pixelOp_toggle_toggle (h8 : p.height % 8 = 0) (hm : m.wf p.fbSize) (x y : Int) :
    pixelOp p .toggle x y (pixelOp p .toggle x y m) = m := by
  refine Memory.ext_pixelGet h8 (wf_pixelOp h8 _ _ _ (wf_pixelOp h8 _ _ _ hm)) hm (by simp) fun px py hs => ?_
  rw [pixelGet_pixelOp _ _ _ _ _ hs, pixelGet_pixelOp _ _ _ _ _ hs]
  split_ifs
  · exact Colour.applyBit_toggle_toggle _
  · rfl

/-- Different points plotted with one colour leave a memory that depends on which on-screen points they are, not on the order. -/
theorem plot_congr (h8 : p.height % 8 = 0) (hm : m.wf p.fbSize) (c : Colour) {l₁ l₂ : List (Int × Int)} (h₁ : l₁.Nodup)
    (h₂ : l₂.Nodup) (h : ∀ x y, p.onScreen x y → ((x, y) ∈ l₁ ↔ (x, y) ∈ l₂)) : plot p c l₁ m = plot p c l₂ m := by
  refine Memory.ext_pixelGet h8 (wf_plot h8 c l₁ hm) (wf_plot h8 c l₂ hm) (by simp) fun x y hs => ?_
  rw [pixelGet_plot p c h₁ m hs, pixelGet_plot p c h₂ m hs]
  simp only [h x y hs]

end

/-- Settles O17: each clause compares two canonical memories over one background, pixel by pixel. -/
theorem pixelOpsCommute : Obligations.PixelOpsCommute := fun _ _ h8 hm =>
  ⟨fun c c' _ _ _ _ hne => pixelOp_comm h8 hm c c' hne, fun _ x y hc => pixelOp_idem h8 hm hc x y,
    fun x y => pixelOp_toggle_toggle h8 hm x y,
    fun c _ _ hperm hn => plot_congr h8 hm c hn (hperm.nodup_iff.1 hn) fun _ _ _ => hperm.mem_iff⟩

end Sys2Proof
end

section
/-!
PROOFS. The pixel access commands SETPIXEL, GETPIXEL, CLEAR (40_pixel_access.md R102 to R105).
-/

namespace Sys2Proof.Machine

/-! ### Their words -/

/-- A command outside the pacer has a legal word on every build (30_encoding.md R86, R87). -/
theorem decode_encode_of_not_pacer (hasPacer : Bool) {i : Instr} (hi : i.isPacer = false) :
    decode hasPacer (encode i) = .ok i :=
  decodeEncode hasPacer i (Instr.wellFormed_of_not_pacer hasPacer hi)

/-- R87 (d): `COL = 3` is no colour. -/
theorem decode_setpixel_reservedColour (hasPacer : Bool) (x y : Half) :
    decode hasPacer (.pack 0x10 3 0 x y 0 0 0) = .error .reservedColour := by
  have hopc : (CommandWord.pack 0x10 3 0 x y 0 0 0).opc = Opcode.setpixel.bits := CommandWord.opc_pack ..
  have hzero : Opcode.setpixel.format.unusedZero (.pack 0x10 3 0 x y 0 0 0) = true := by
    simp [Format.unusedZero, Opcode.format]
  rw [decode_of_opc hopc, if_neg (by simp [Opcode.isPacer]), if_pos hzero, decodeRow, withColour, CommandWord.col_pack]
  rfl

/-! ### Their meanings -/

/-- A pixel as GETPIXEL answers it: zero-extended (R103). -/
def pixelWord (b : Bool) : Word := if b then 1 else 0

theorem pixelWord_false : pixelWord false = 0 := rfl

theorem pixelWord_eq_zeroExtend (b : Bool) : pixelWord b = BitVec.zeroExtend 32 (BitVec.ofBool b) := by
  cases b <;> rfl

theorem pixelWord_not (b : Bool) : pixelWord (!b) = 1 - pixelWord b := by cases b <;> rfl

section
variable (s : State) (x y : Half) (c : Colour)

theorem exec_setpixel : exec (.setpixel x y c) s = .next (s.drawn (pixelOp s.params c x.toInt y.toInt)) := rfl

theorem exec_getpixel :
    exec (.getpixel x y) s = .next (s.answer (pixelWord (s.pixel s.active x.toInt y.toInt))) := rfl

theorem exec_clear : exec .clear s = .next (s.drawn fun _ => Memory.cleared) := rfl

end

/-! ### Pixels -/

theorem State.pixel_of_onScreen (s : State) (k : BufIdx) {x y : Int} (h : s.params.onScreen x y) :
    s.pixel k x y = ((s.buf k).read (s.params.byteIndex x y)).getLsbD (bitIndex y) := if_pos h

theorem State.pixel_of_not_onScreen (s : State) (k : BufIdx) {x y : Int} (h : ¬ s.params.onScreen x y) :
    s.pixel k x y = false := if_neg h

@[simp] theorem pixelGet_cleared (p : Params) (x y : Int) : pixelGet p x y Memory.cleared = false := by
  simp [pixelGet]

/-- Drawing what the active buffer holds already only ends the command. -/
theorem State.drawn_of_fixed (s : State) {f : Memory → Memory} (h : f (s.buf s.active) = s.buf s.active) :
    s.drawn f = s.finish := by
  rw [State.drawn, State.draw, h, State.setBuf_buf]

theorem State.drawn_pixelOp_of_not_onScreen (s : State) (c : Colour) {x y : Int} (h : ¬ s.params.onScreen x y) :
    s.drawn (pixelOp s.params c x y) = s.finish :=
  s.drawn_of_fixed (pixelOp_of_not_onScreen _ c _ h)

theorem State.recoloured_pixelOp (s : State) (c : Colour) (x y : Int) :
    s.Recoloured (s.drawn (pixelOp s.params c x y)) c fun px py => px = x ∧ py = y := by
  have h := s.recoloured_plot c (List.nodup_singleton (x, y))
  exact h.congr fun px py _ => by simp

/-- SETPIXEL seen through a pixel of the active buffer. -/
theorem State.pixel_drawn_pixelOp (s : State) (c : Colour) (x y : Int) {px py : Int} (h : s.params.onScreen px py) :
    (s.drawn (pixelOp s.params c x y)).pixel s.active px py =
      if px = x ∧ py = y then c.applyBit (s.pixel s.active px py) else s.pixel s.active px py := by
  rw [State.pixel_drawn, pixelGet_pixelOp _ _ _ _ _ h]
  rfl

/-! ### The statements -/

/-- Settles O18: SETPIXEL plots one point. -/
theorem setpixel : Obligations.Setpixel := fun x y c =>
  ⟨fun hasPacer => ⟨decode_encode_of_not_pacer hasPacer (i := .setpixel x y c) rfl,
      decode_setpixel_reservedColour hasPacer x y⟩,
    fun s => ⟨_, exec_setpixel s x y c, s.onlyDrew_drawn _, s.recoloured_pixelOp c _ _,
      fun h => s.drawn_pixelOp_of_not_onScreen c h⟩⟩

/-- Settles O19: the answer is the pixel of the active buffer, by the two cases of `pixelGet`. -/
theorem getpixel : Obligations.Getpixel := by
  refine fun x y => ⟨fun hasPacer => decode_encode_of_not_pacer hasPacer (i := .getpixel x y) rfl,
    fun s => ⟨_, exec_getpixel s x y, rfl, fun h => ?_, fun h => ?_⟩⟩
  · rw [State.answer_result, pixelWord_eq_zeroExtend, s.pixel_of_onScreen _ h]
    rfl
  · rw [State.answer_result, s.pixel_of_not_onScreen _ h, pixelWord_false]

/-- Settles O20: the active buffer is `Memory.cleared`, of which every byte and so every pixel is 0. -/
theorem clear : Obligations.Clear := by
  refine ⟨fun hasPacer => decode_encode_of_not_pacer hasPacer (i := .clear) rfl,
    fun s => ⟨_, exec_clear s, s.onlyDrew_drawn _, fun a _ => by simp, fun x y => ⟨_, exec_getpixel _ x y, ?_⟩⟩⟩
  have hpixel : (s.drawn fun _ => Memory.cleared).pixel s.active x.toInt y.toInt = false := by
    rw [State.pixel_drawn, pixelGet_cleared]
  exact congrArg pixelWord hpixel

/-- Operand fields that differ stand for different pixels (30_encoding.md R83). -/
theorem not_toInt_eq_of_ne {x y x' y' : Half} (hne : (x', y') ≠ (x, y)) : ¬(x'.toInt = x.toInt ∧ y'.toInt = y.toInt) := by
  rwa [BitVec.toInt_inj, BitVec.toInt_inj, ← Prod.mk.injEq]

/-- Settles O21: GETPIXEL answers the pixel, of which `State.pixel_drawn_pixelOp` says what SETPIXEL made. -/
theorem setThenGet : Obligations.SetThenGet := by
  intro s t x y c ht
  rw [exec_setpixel] at ht
  injection ht with ht
  subst ht
  refine ⟨fun h => ⟨⟨_, _, exec_getpixel s x y, exec_getpixel _ x y, ?_⟩, fun x' y' h' hne =>
    ⟨_, _, exec_getpixel s x' y', exec_getpixel _ x' y', ?_⟩⟩, fun h => ?_⟩
  · have hown := s.pixel_drawn_pixelOp c x.toInt y.toInt h
    rw [if_pos ⟨rfl, rfl⟩] at hown
    have hv := congrArg pixelWord hown
    refine ⟨?_, ?_, ?_⟩ <;> rintro rfl
    · exact hv
    · exact hv
    · exact hv.trans (pixelWord_not _)
  · have hother := s.pixel_drawn_pixelOp c x.toInt y.toInt h'
    rw [if_neg (not_toInt_eq_of_ne hne)] at hother
    exact congrArg pixelWord hother
  · rw [s.drawn_pixelOp_of_not_onScreen c h]
    exact ⟨rfl, rfl⟩

end Sys2Proof.Machine
end

section
/-!
PROOFS. Clipping cannot be observed (41_runs_and_rect.md R121 to R123): the clipped points are those of the loops' points that lie
in the screen's extent along each axis, in the same order, and `PixelOp` does nothing at the others (40_pixel_access.md R100).
-/

namespace Sys2Proof

/-- Off-screen points can be left out. -/
theorem plot_filter (p : Params) (c : Colour) {q : Int × Int → Bool} (hq : ∀ r, p.onScreen r.1 r.2 → q r = true)
    (pts : List (Int × Int)) (m : Memory) : plot p c (pts.filter q) m = plot p c pts m := by
  induction pts generalizing m with
  | nil => rfl
  | cons r pts ih =>
    by_cases hr : q r = true
    · rw [List.filter_cons_of_pos hr, plot_cons, plot_cons, ih]
    · rw [List.filter_cons_of_neg hr, plot_cons, ih, pixelOp_of_not_onScreen p c m fun hs => hr (hq r hs)]

/-- Is the coordinate inside the extent of the screen along its axis? -/
def inExtent (limit : Nat) (v : Int) : Bool := decide (0 ≤ v ∧ v < limit)

/-- The numbers `lo, lo+1, …, lo+n-1` that a loop counts through. -/
def counted (lo : Int) (n : Nat) : List Int := (List.range n).map fun i : Nat => lo + (i : Int)

theorem counted_succ (lo : Int) (n : Nat) : counted lo (n + 1) = counted lo n ++ [lo + n] := by
  simp [counted, List.range_succ]

/-- A span ends with the last number of the run, if that is inside the extent. -/
theorem span_succ (lo : Int) (n limit : Nat) :
    span lo (n + 1) limit = span lo n limit ++ if inExtent limit (lo + n) then [(lo + n).toNat] else [] := by
  unfold span inExtent
  split_ifs with hin
  · obtain ⟨hlo, hhi⟩ := of_decide_eq_true hin
    have hlength : min (lo + (n + 1 : Nat)).toNat limit - lo.toNat = min (lo + n).toNat limit - lo.toNat + 1 := by omega
    have hlast : lo.toNat + (min (lo + n).toNat limit - lo.toNat) = (lo + n).toNat := by omega
    rw [hlength, List.range'_1_concat, hlast]
  · have hout := of_decide_eq_false (Bool.eq_false_iff.2 hin)
    have hlength : min (lo + (n + 1 : Nat)).toNat limit - lo.toNat = min (lo + n).toNat limit - lo.toNat := by omega
    rw [hlength, List.append_nil]

/-- A span is the part of the loop's numbers that is inside the extent. -/
theorem map_cast_span (lo : Int) (n limit : Nat) :
    (span lo n limit).map (fun v : Nat => (v : Int)) = (counted lo n).filter (inExtent limit) := by
  induction n with
  | zero =>
    simp [span, counted]
  | succ n ih =>
    rw [span_succ, counted_succ, List.map_append, List.filter_append, ih]
    by_cases hin : inExtent limit (lo + n) = true
    · have hcast : (((lo + n).toNat : Nat) : Int) = lo + n := Int.toNat_of_nonneg (of_decide_eq_true hin).1
      simp only [hin, if_true, List.map_cons, hcast, List.map_nil, List.filter_singleton, cond_true]
    · simp [hin]

/-! ### Products of coordinates -/

section
variable {α β γ δ : Type}

theorem product_singleton (xs : List α) (b : β) : xs ×ˢ [b] = xs.map fun a => (a, b) := by
  induction xs with
  | nil => rfl
  | cons x xs ih => rw [List.product_cons, ih]; rfl

theorem singleton_product (a : α) (ys : List β) : [a] ×ˢ ys = ys.map fun b => (a, b) := by
  rw [List.product_cons, List.nil_product, List.append_nil]

/-- Two nested loops visit a product. -/
theorem map_product_map (f : α → γ) (g : β → δ) (xs : List α) (ys : List β) :
    xs.map f ×ˢ ys.map g = xs.flatMap fun a => ys.map fun b => (f a, g b) := by
  induction xs with
  | nil => rfl
  | cons x xs ih => rw [List.map_cons, List.product_cons, ih, List.flatMap_cons, List.map_map]; rfl

/-- Filtering a product by a test of each component. -/
theorem filter_product (f : α → Bool) (g : β → Bool) (xs : List α) (ys : List β) :
    (xs ×ˢ ys).filter (fun r => f r.1 && g r.2) = xs.filter f ×ˢ ys.filter g := by
  induction xs with
  | nil => rfl
  | cons x xs ih =>
    rw [List.product_cons, List.filter_append, ih, List.filter_map]
    cases hx : f x with
    | false => simp [hx, Function.comp_def]
    | true => simp [hx, Function.comp_def]

end

/-- Clipping the coordinates of a product, along one axis or both, leaves the same memory. -/
theorem plot_filter_product (p : Params) (c : Colour) (m : Memory) {f g : Int → Bool}
    (hf : ∀ v, inExtent p.width v = true → f v = true) (hg : ∀ v, inExtent p.height v = true → g v = true)
    (xs ys : List Int) : plot p c (xs.filter f ×ˢ ys.filter g) m = plot p c (xs ×ˢ ys) m := by
  rw [← filter_product]
  refine plot_filter p c (fun r ⟨hx, hy⟩ => ?_) _ m
  rw [hf r.1 (decide_eq_true hx), hg r.2 (decide_eq_true hy), Bool.and_self]

/-! ### The three commands -/

section
variable (p : Params) (c : Colour) (x y : Int) (w h : Nat) (m : Memory)

theorem plot_hlinePoints :
    plot p c (p.hlinePoints x y w) m = plot p c ((List.range w).map fun i : Nat => (x + (i : Int), y)) m := by
  have hclipped : p.hlinePoints x y w = (counted x w).filter (inExtent p.width) ×ˢ [y].filter fun _ => true := by
    rw [← map_cast_span, List.filter_true, product_singleton, List.map_map]
    rfl
  rw [hclipped, plot_filter_product p c m (fun _ hv => hv) fun _ _ => rfl, product_singleton, counted, List.map_map]
  rfl

theorem plot_vlinePoints :
    plot p c (p.vlinePoints x y h) m = plot p c ((List.range h).map fun j : Nat => (x, y + (j : Int))) m := by
  have hclipped : p.vlinePoints x y h = ([x].filter fun _ => true) ×ˢ (counted y h).filter (inExtent p.height) := by
    rw [← map_cast_span, List.filter_true, singleton_product, List.map_map]
    rfl
  rw [hclipped, plot_filter_product p c m (fun _ _ => rfl) fun _ hv => hv, singleton_product, counted, List.map_map]
  rfl

theorem plot_rectPoints :
    plot p c (p.rectPoints x y w h) m =
      plot p c ((List.range w).flatMap fun i : Nat => (List.range h).map fun j : Nat => (x + (i : Int), y + (j : Int))) m := by
  have hclipped : p.rectPoints x y w h =
      (counted x w).filter (inExtent p.width) ×ˢ (counted y h).filter (inExtent p.height) := by
    rw [← map_cast_span, ← map_cast_span, map_product_map]
    rfl
  rw [hclipped, plot_filter_product p c m (fun _ hv => hv) fun _ hv => hv, counted, counted, map_product_map]

end

/-- Settles O25: a lemma for each of the three commands. -/
theorem clippingIsInvisible : Obligations.ClippingIsInvisible := fun p c x y w h m =>
  ⟨plot_hlinePoints p c x y w m, plot_vlinePoints p c x y h m, plot_rectPoints p c x y w h m⟩

end Sys2Proof
end

section
/-!
PROOFS. The run and rectangle commands HLINE, VLINE, FILLRECT and the laws of rectangles (41_runs_and_rect.md R121 to R124).
-/

namespace Sys2Proof

/-! ### Plotting twice -/

/-- One colour applied twice to a pixel. -/
theorem Colour.applyBit_twice (c : Colour) (b : Bool) :
    c.applyBit (c.applyBit b) = if c = .toggle then b else c.applyBit b := by
  split_ifs with hc
  · rw [hc, Colour.applyBit_toggle_toggle]
  · exact Colour.applyBit_applyBit hc b

/-- Two sets of points commute where the points they share take one colour. -/
theorem plot_comm {p : Params} {m : Memory} (h8 : p.height % 8 = 0) (hm : m.wf p.fbSize) {c c' : Colour}
    {l l' : List (Int × Int)} (hn : l.Nodup) (hn' : l'.Nodup) (hshared : ∀ q ∈ l, q ∈ l' → c = c') :
    plot p c' l' (plot p c l m) = plot p c l (plot p c' l' m) := by
  refine Memory.ext_pixelGet h8 (wf_plot h8 _ _ (wf_plot h8 _ _ hm)) (wf_plot h8 _ _ (wf_plot h8 _ _ hm)) (by simp)
    fun px py hs => ?_
  simp only [pixelGet_plot p _ hn _ hs, pixelGet_plot p _ hn' _ hs]
  by_cases hl : (px, py) ∈ l
  · by_cases hl' : (px, py) ∈ l'
    · obtain rfl := hshared _ hl hl'
      simp only [if_pos hl, if_pos hl']
    · simp only [if_neg hl']
  · simp only [if_neg hl]

/-! ### Runs and pixels as rectangles -/

section
variable (p : Params) (c : Colour) (x y : Int) (w h : Nat) (m : Memory)

theorem plot_hlinePoints_eq_rect : plot p c (p.hlinePoints x y w) m = plot p c (p.rectPoints x y w 1) m := by
  rw [plot_hlinePoints, plot_rectPoints]
  simp [List.map_eq_flatMap]

theorem plot_vlinePoints_eq_rect : plot p c (p.vlinePoints x y h) m = plot p c (p.rectPoints x y 1 h) m := by
  rw [plot_vlinePoints, plot_rectPoints]
  simp

theorem pixelOp_eq_plot_rect : pixelOp p c x y m = plot p c (p.rectPoints x y 1 1) m := by
  rw [plot_rectPoints]
  simp

end

namespace Machine

/-! ### The meanings of the commands -/

section
variable (s : State) (x y w h : Half) (c : Colour)

theorem exec_hline :
    exec (.hline x y w c) s = .next (s.drawn (plot s.params c (s.params.hlinePoints x.toInt y.toInt w.toNat))) := rfl

theorem exec_vline :
    exec (.vline x y h c) s = .next (s.drawn (plot s.params c (s.params.vlinePoints x.toInt y.toInt h.toNat))) := rfl

theorem exec_fillrect : exec (.fillrect x y w h c) s =
    .next (s.drawn (plot s.params c (s.params.rectPoints x.toInt y.toInt w.toNat h.toNat))) := rfl

theorem exec_hline_eq_fillrect : exec (.hline x y w c) s = exec (.fillrect x y w 1 c) s :=
  congrArg (fun f => Host.Outcome.next (s.drawn f)) (funext (plot_hlinePoints_eq_rect s.params c x.toInt y.toInt w.toNat))

theorem exec_vline_eq_fillrect : exec (.vline x y h c) s = exec (.fillrect x y 1 h c) s :=
  congrArg (fun f => Host.Outcome.next (s.drawn f)) (funext (plot_vlinePoints_eq_rect s.params c x.toInt y.toInt h.toNat))

theorem exec_setpixel_eq_fillrect : exec (.setpixel x y c) s = exec (.fillrect x y 1 1 c) s :=
  congrArg (fun f => Host.Outcome.next (s.drawn f)) (funext (pixelOp_eq_plot_rect s.params c x.toInt y.toInt))

end

/-! ### Two drawing commands in a row -/

/-- A second drawing command goes on in the buffer that the first one left. -/
theorem State.drawn_drawn (s : State) (f g : Memory → Memory) : (s.drawn f).drawn g = s.drawn fun m => g (f m) := by
  cases hk : s.active <;> simp [State.drawn, State.draw, State.setBuf, State.finish, State.buf, hk]

/-- Two commands that plot commute where the points they share take one colour. -/
theorem State.drawn_plot_comm {s : State} (h8 : s.params.height % 8 = 0) (hm : s.MemoriesWf) {c c' : Colour}
    {l l' : List (Int × Int)} (hn : l.Nodup) (hn' : l'.Nodup) (hshared : ∀ q ∈ l, q ∈ l' → c = c') :
    (s.drawn (plot s.params c l)).drawn (plot s.params c' l') =
      (s.drawn (plot s.params c' l')).drawn (plot s.params c l) := by
  rw [State.drawn_drawn, State.drawn_drawn, State.drawn, State.drawn, State.draw, State.draw,
    plot_comm h8 (State.wf_buf hm s.active) hn hn' hshared]

/-! ### The pixels of a rectangle -/

/-- The pixel is one of the rectangle of FILLRECT's operands (R123). -/
abbrev InRect (x y w h : Half) (px py : Int) : Prop :=
  (x.toInt ≤ px ∧ px < x.toInt + w.toNat) ∧ y.toInt ≤ py ∧ py < y.toInt + h.toNat

/-- On screen the clipped points are the rectangle's pixels. -/
theorem mem_rectPoints_iff_inRect {p : Params} {x y w h : Half} {px py : Int} (hs : p.onScreen px py) :
    (px, py) ∈ p.rectPoints x.toInt y.toInt w.toNat h.toNat ↔ InRect x y w h px py :=
  mem_rectPoints.trans (and_iff_right hs)

section
variable {s t u t' u' : State} {x y w h x' y' w' h' : Half} {c c' : Colour}

theorem fillrect_eq_drawn (ht : exec (.fillrect x y w h c) s = .next t) :
    s.drawn (plot s.params c (s.params.rectPoints x.toInt y.toInt w.toNat h.toNat)) = t := by
  rw [exec_fillrect] at ht
  injection ht

/-- FILLRECT seen through a pixel of the active buffer. -/
theorem pixel_of_fillrect (ht : exec (.fillrect x y w h c) s = .next t) {px py : Int} (hs : s.params.onScreen px py) :
    t.pixel s.active px py =
      if InRect x y w h px py then c.applyBit (s.pixel s.active px py) else s.pixel s.active px py := by
  obtain rfl := fillrect_eq_drawn ht
  rw [State.pixel_drawn, pixelGet_plot _ _ (nodup_rectPoints ..) _ hs]
  exact if_congr (mem_rectPoints_iff_inRect hs) rfl rfl

/-- Two rectangles commute where the pixels they share take one colour. -/
theorem fillrect_comm (h8 : s.params.height % 8 = 0) (hm : s.MemoriesWf)
    (ht : exec (.fillrect x y w h c) s = .next t) (hu : exec (.fillrect x' y' w' h' c') t = .next u)
    (ht' : exec (.fillrect x' y' w' h' c') s = .next t') (hu' : exec (.fillrect x y w h c) t' = .next u')
    (hshared : ∀ px py, InRect x y w h px py → InRect x' y' w' h' px py → c = c') : u = u' := by
  obtain rfl := fillrect_eq_drawn ht
  obtain rfl := fillrect_eq_drawn hu
  obtain rfl := fillrect_eq_drawn ht'
  obtain rfl := fillrect_eq_drawn hu'
  exact State.drawn_plot_comm h8 hm (nodup_rectPoints ..) (nodup_rectPoints ..) fun q hq hq' =>
    hshared q.1 q.2 (mem_rectPoints.1 hq).2 (mem_rectPoints.1 hq').2

/-- Two rectangles of one colour: a pixel of both is as if left alone under `TOGGLE`, else as if drawn once. -/
theorem pixel_of_fillrect_twice (ht : exec (.fillrect x y w h c) s = .next t)
    (hu : exec (.fillrect x' y' w' h' c) t = .next u) {px py : Int} (hs : s.params.onScreen px py) :
    u.pixel s.active px py =
      if InRect x y w h px py then
        if InRect x' y' w' h' px py then
          (if c = .toggle then s.pixel s.active px py else c.applyBit (s.pixel s.active px py))
        else c.applyBit (s.pixel s.active px py)
      else if InRect x' y' w' h' px py then c.applyBit (s.pixel s.active px py)
      else s.pixel s.active px py := by
  have hfirst := pixel_of_fillrect ht hs
  obtain rfl := fillrect_eq_drawn ht
  have hsecond := pixel_of_fillrect hu hs
  rw [State.drawn_active, hfirst] at hsecond
  rw [hsecond, ← Colour.applyBit_twice]
  by_cases hr : InRect x y w h px py
  · simp only [if_pos hr]
  · simp only [if_neg hr]

end

/-! ### The statements -/

/-- Settles O22: HLINE plots `hlinePoints`, of which `mem_hlinePoints` says which they are. -/
theorem hline : Obligations.Hline := by
  refine fun x y w c => ⟨fun hasPacer => decode_encode_of_not_pacer hasPacer (i := .hline x y w c) rfl,
    fun s => ⟨_, exec_hline s x y w c, s.onlyDrew_drawn _,
      (s.recoloured_plot c (nodup_hlinePoints ..)).congr fun px py hs => ?_⟩⟩
  obtain ⟨hx, -⟩ := hs
  rw [mem_hlinePoints]
  omega

/-- Settles O23: VLINE plots `vlinePoints`, of which `mem_vlinePoints` says which they are. -/
theorem vline : Obligations.Vline := by
  refine fun x y h c => ⟨fun hasPacer => decode_encode_of_not_pacer hasPacer (i := .vline x y h c) rfl,
    fun s => ⟨_, exec_vline s x y h c, s.onlyDrew_drawn _,
      (s.recoloured_plot c (nodup_vlinePoints ..)).congr fun px py hs => ?_⟩⟩
  obtain ⟨-, hy⟩ := hs
  rw [mem_vlinePoints]
  omega

/-- Settles O24: FILLRECT plots `rectPoints`, each once, and on screen these are the rectangle's pixels. -/
theorem fillrect : Obligations.Fillrect := fun x y w h c =>
  ⟨fun hasPacer => decode_encode_of_not_pacer hasPacer (i := .fillrect x y w h c) rfl,
    fun s => ⟨_, exec_fillrect s x y w h c, s.onlyDrew_drawn _,
      (s.recoloured_plot c (nodup_rectPoints ..)).congr fun _ _ hs => mem_rectPoints_iff_inRect hs⟩⟩

/-- Settles O26: an equation for each form, and `fillrect_comm` for rectangles without a shared pixel or of one colour. -/
theorem rectLaws : Obligations.RectLaws := by
  refine ⟨fun x y w c s => exec_hline_eq_fillrect s x y w c, fun x y h c s => exec_vline_eq_fillrect s x y h c,
    fun x y c s => exec_setpixel_eq_fillrect s x y c, ?_⟩
  intro x y w h x' y' w' h' c c' s t u t' u' hp hm ht hu ht' hu'
  obtain ⟨-, ⟨-, -, h8⟩, -⟩ := hp
  refine ⟨fun hdisjoint => fillrect_comm h8 hm ht hu ht' hu' fun px py hr hr' => absurd ⟨hr, hr'⟩ (hdisjoint px py),
    fun hc => ⟨fillrect_comm h8 hm ht hu ht' hu' fun _ _ _ _ => hc, fun px py hs => ?_⟩⟩
  subst hc
  exact pixel_of_fillrect_twice ht hu hs

end Machine

end Sys2Proof
end

section
/-!
PROOFS. The line command LINE: its loop in closed form and the laws of a line (42_line.md R136, R137).
-/

namespace Sys2Proof

/-! ### The two exchanges of R136 -/

/-- The order of the two extents in which the exchanges of R136 leave a line. -/
def LineSetup.Ordered (l : LineSetup) : Prop := 0 ≤ l.dy ∧ l.dy ≤ l.dx

section
variable (steep : Bool) {u0 v0 u1 v1 : Int}

theorem lineEnds_of_le (hu : u0 ≤ u1) : lineEnds steep u0 v0 u1 v1 =
    { steep, u0, v0, dx := u1 - u0, dy := (v1 - v0).natAbs, ystep := if v0 < v1 then 1 else -1 } :=
  if_neg (not_lt.2 hu)

theorem lineEnds_of_lt (hu : u1 < u0) : lineEnds steep u0 v0 u1 v1 = lineEnds steep u1 v1 u0 v0 := by
  rw [lineEnds_of_le steep hu.le]
  exact if_pos hu

/-- With equal major coordinates the two ends are one point, so the exchange does not matter there either. -/
theorem lineEnds_comm (h : (v1 - v0).natAbs ≤ (u1 - u0).natAbs) :
    lineEnds steep u0 v0 u1 v1 = lineEnds steep u1 v1 u0 v0 := by
  rcases lt_trichotomy u0 u1 with hu | hu | hu
  · exact (lineEnds_of_lt steep hu).symm
  · obtain rfl : v0 = v1 := by omega
    rw [hu]
  · exact lineEnds_of_lt steep hu

theorem lineEnds_steep : (lineEnds steep u0 v0 u1 v1).steep = steep := by
  rw [lineEnds]
  split_ifs <;> rfl

theorem lineEnds_dx : (lineEnds steep u0 v0 u1 v1).dx = (u1 - u0).natAbs := by
  rw [lineEnds]
  split_ifs <;> dsimp only <;> omega

theorem lineEnds_dy : (lineEnds steep u0 v0 u1 v1).dy = (v1 - v0).natAbs := by
  rw [lineEnds]
  split_ifs <;> dsimp only <;> omega

theorem lineEnds_ystep : (lineEnds steep u0 v0 u1 v1).ystep = 1 ∨ (lineEnds steep u0 v0 u1 v1).ystep = -1 := by
  rw [lineEnds]
  split_ifs <;> simp

theorem lineEnds_ordered (h : (v1 - v0).natAbs ≤ (u1 - u0).natAbs) : (lineEnds steep u0 v0 u1 v1).Ordered := by
  rw [LineSetup.Ordered, lineEnds_dx, lineEnds_dy]
  omega

theorem lineEnds_start (hu : u0 ≤ u1) :
    (lineEnds steep u0 v0 u1 v1).u0 = u0 ∧ (lineEnds steep u0 v0 u1 v1).v0 = v0 := by
  rw [lineEnds_of_le steep hu]
  exact ⟨rfl, rfl⟩

theorem lineEnds_finish (hu : u0 ≤ u1) :
    (lineEnds steep u0 v0 u1 v1).u0 + (lineEnds steep u0 v0 u1 v1).dx = u1 ∧
      (lineEnds steep u0 v0 u1 v1).v0 + (lineEnds steep u0 v0 u1 v1).ystep * (lineEnds steep u0 v0 u1 v1).dy = v1 := by
  rw [lineEnds_of_le steep hu]
  dsimp only
  split_ifs <;> omega

end

section
variable {x0 y0 x1 y1 : Int}

theorem lineSetup_of_steep (h : (y1 - y0).natAbs > (x1 - x0).natAbs) :
    lineSetup x0 y0 x1 y1 = lineEnds true y0 x0 y1 x1 := if_pos h

theorem lineSetup_of_not_steep (h : ¬ (y1 - y0).natAbs > (x1 - x0).natAbs) :
    lineSetup x0 y0 x1 y1 = lineEnds false x0 y0 x1 y1 := if_neg h

/-- Whatever `lineEnds` gives every line no longer in the minor than in the major direction, `lineSetup` has. -/
theorem lineSetup_of_lineEnds {P : LineSetup → Prop}
    (h : ∀ steep u0 v0 u1 v1, (v1 - v0).natAbs ≤ (u1 - u0).natAbs → P (lineEnds steep u0 v0 u1 v1)) :
    P (lineSetup x0 y0 x1 y1) := by
  by_cases hsteep : (y1 - y0).natAbs > (x1 - x0).natAbs
  · rw [lineSetup_of_steep hsteep]
    exact h _ _ _ _ _ hsteep.le
  · rw [lineSetup_of_not_steep hsteep]
    exact h _ _ _ _ _ (not_lt.1 hsteep)

theorem lineSetup_steep : (lineSetup x0 y0 x1 y1).steep = true ↔ (y1 - y0).natAbs > (x1 - x0).natAbs := by
  by_cases hsteep : (y1 - y0).natAbs > (x1 - x0).natAbs
  · rw [lineSetup_of_steep hsteep, lineEnds_steep, iff_true_right hsteep]
  · rw [lineSetup_of_not_steep hsteep, lineEnds_steep, iff_false_right hsteep, Bool.not_eq_true]

theorem lineSetup_dx : (lineSetup x0 y0 x1 y1).dx = (max (x1 - x0).natAbs (y1 - y0).natAbs : Nat) := by
  by_cases hsteep : (y1 - y0).natAbs > (x1 - x0).natAbs
  · rw [lineSetup_of_steep hsteep, lineEnds_dx, max_eq_right hsteep.le]
  · rw [lineSetup_of_not_steep hsteep, lineEnds_dx, max_eq_left (not_lt.1 hsteep)]

variable (x0 y0 x1 y1)

theorem lineSetup_ordered : (lineSetup x0 y0 x1 y1).Ordered :=
  lineSetup_of_lineEnds fun steep _ _ _ _ h => lineEnds_ordered steep h

theorem lineSetup_ystep : (lineSetup x0 y0 x1 y1).ystep = 1 ∨ (lineSetup x0 y0 x1 y1).ystep = -1 :=
  lineSetup_of_lineEnds (P := fun l => l.ystep = 1 ∨ l.ystep = -1) fun steep _ _ _ _ _ => lineEnds_ystep steep

theorem lineSetup_comm : lineSetup x0 y0 x1 y1 = lineSetup x1 y1 x0 y0 := by
  by_cases hsteep : (y1 - y0).natAbs > (x1 - x0).natAbs
  · rw [lineSetup_of_steep hsteep, lineSetup_of_steep (by omega)]
    exact lineEnds_comm true hsteep.le
  · rw [lineSetup_of_not_steep hsteep, lineSetup_of_not_steep (by omega)]
    exact lineEnds_comm false (not_lt.1 hsteep)

end

/-! ### The pixels of a line -/

/-- The pixel of a major and a minor coordinate: the roles of the axes exchanged back. -/
def LineSetup.emitted (l : LineSetup) (u v : Int) : Int × Int := if l.steep then (v, u) else (u, v)

theorem LineSetup.emitted_inj {l : LineSetup} {u v u' v' : Int} : l.emitted u v = l.emitted u' v' ↔ u = u' ∧ v = v' := by
  rw [LineSetup.emitted, LineSetup.emitted]
  split_ifs
  · rw [Prod.mk.injEq, and_comm]
  · rw [Prod.mk.injEq]

theorem LineSetup.emitted_of_steep {l : LineSetup} (h : l.steep = true) (u v : Int) : l.emitted u v = (v, u) := if_pos h

theorem LineSetup.emitted_of_not_steep {l : LineSetup} (h : ¬ l.steep = true) (u v : Int) : l.emitted u v = (u, v) :=
  if_neg h

/-- Where the first end has the smaller major coordinate, the set-up starts there and finishes at the other. -/
theorem emitted_lineSetup {x0 y0 x1 y1 : Int} {l : LineSetup} (hl : lineSetup x0 y0 x1 y1 = l)
    (h : ((y1 - y0).natAbs > (x1 - x0).natAbs ∧ y0 ≤ y1) ∨ (¬ (y1 - y0).natAbs > (x1 - x0).natAbs ∧ x0 ≤ x1)) :
    l.emitted l.u0 l.v0 = (x0, y0) ∧ l.emitted (l.u0 + l.dx) (l.v0 + l.ystep * l.dy) = (x1, y1) := by
  subst hl
  rcases h with ⟨hsteep, hle⟩ | ⟨hsteep, hle⟩
  · obtain ⟨hu0, hv0⟩ := lineEnds_start true (v0 := x0) (v1 := x1) hle
    obtain ⟨hu1, hv1⟩ := lineEnds_finish true (v0 := x0) (v1 := x1) hle
    simp only [LineSetup.emitted_of_steep (lineSetup_steep.2 hsteep)]
    rw [lineSetup_of_steep hsteep, hu1, hv1, hu0, hv0]
    exact ⟨rfl, rfl⟩
  · obtain ⟨hu0, hv0⟩ := lineEnds_start false (v0 := y0) (v1 := y1) hle
    obtain ⟨hu1, hv1⟩ := lineEnds_finish false (v0 := y0) (v1 := y1) hle
    simp only [LineSetup.emitted_of_not_steep (mt lineSetup_steep.1 hsteep)]
    rw [lineSetup_of_not_steep hsteep, hu1, hv1, hu0, hv0]
    exact ⟨rfl, rfl⟩

/-! ### The error term and the minor steps -/

/-- How often the minor coordinate has moved by point `k`, as `linePoint` gives it. -/
def LineSetup.minorSteps (l : LineSetup) (k : Nat) : Int := (k * l.dy + (l.dx - 1 - l.dx / 2)) / l.dx

/-- The error term of R136 after `k` steps of the major and `m` steps of the minor axis. -/
def LineSetup.error (l : LineSetup) (k : Nat) (m : Int) : Int := l.dx / 2 - k * l.dy + l.dx * m

section
variable {l : LineSetup}

theorem LineSetup.error_succ (k : Nat) (m : Int) : l.error (k + 1) m = l.error k m - l.dy := by
  simp only [LineSetup.error]
  push_cast
  ring

theorem LineSetup.error_add_one (k : Nat) (m : Int) : l.error k (m + 1) = l.error k m + l.dx := by
  simp only [LineSetup.error]
  ring

/-- The number of minor steps is the one that keeps the error term from 0 to `dx - 1`. -/
theorem LineSetup.minorSteps_eq_iff (hdx : 0 < l.dx) {k : Nat} {m : Int} :
    l.minorSteps k = m ↔ 0 ≤ l.error k m ∧ l.error k m < l.dx := by
  rw [LineSetup.minorSteps, LineSetup.error, Int.ediv_eq_iff_of_pos hdx, mul_comm l.dx m]
  omega

/-- A line of one point: nothing moves. -/
theorem LineSetup.Ordered.of_dx_eq_zero (h : l.Ordered) (hdx : l.dx = 0) (k : Nat) :
    l.minorSteps k = 0 ∧ l.error k (l.minorSteps k) = 0 := by
  have hdy : l.dy = 0 := le_antisymm (hdx ▸ h.2) h.1
  simp [LineSetup.minorSteps, LineSetup.error, hdx, hdy]

theorem LineSetup.Ordered.dx_nonneg (h : l.Ordered) : 0 ≤ l.dx := h.1.trans h.2

theorem LineSetup.Ordered.error_bounds (h : l.Ordered) (k : Nat) :
    0 ≤ l.error k (l.minorSteps k) ∧ l.error k (l.minorSteps k) ≤ 2 * (l.dx / 2) := by
  rcases h.dx_nonneg.eq_or_lt with hdx | hdx
  · have herror := (h.of_dx_eq_zero hdx.symm k).2
    omega
  · have hbounds := (LineSetup.minorSteps_eq_iff hdx).1 (rfl : l.minorSteps k = _)
    omega

/-- The minor axis moves exactly when the loop finds the error term gone below zero. -/
theorem LineSetup.Ordered.minorSteps_succ (h : l.Ordered) (k : Nat) : l.minorSteps (k + 1) =
    if l.error k (l.minorSteps k) - l.dy < 0 then l.minorSteps k + 1 else l.minorSteps k := by
  have ⟨hdy, hle⟩ := h
  rcases h.dx_nonneg.eq_or_lt with hdx | hdx
  · rw [(h.of_dx_eq_zero hdx.symm k).2, (h.of_dx_eq_zero hdx.symm k).1, (h.of_dx_eq_zero hdx.symm (k + 1)).1]
    exact (if_neg (by omega)).symm
  · obtain ⟨hnonneg, hlt⟩ := (LineSetup.minorSteps_eq_iff hdx).1 (rfl : l.minorSteps k = _)
    rw [LineSetup.minorSteps_eq_iff hdx]
    split_ifs with hneg
    · rw [LineSetup.error_add_one, LineSetup.error_succ]
      omega
    · rw [LineSetup.error_succ]
      omega

theorem LineSetup.Ordered.minorSteps_zero (h : l.Ordered) : l.minorSteps 0 = 0 := by
  rcases h.dx_nonneg.eq_or_lt with hdx | hdx
  · exact (h.of_dx_eq_zero hdx.symm 0).1
  · rw [LineSetup.minorSteps_eq_iff hdx, LineSetup.error]
    omega

theorem LineSetup.Ordered.minorSteps_dx (h : l.Ordered) : l.minorSteps l.dx.toNat = l.dy := by
  rcases h.dx_nonneg.eq_or_lt with hdx | hdx
  · rw [(h.of_dx_eq_zero hdx.symm _).1]
    exact le_antisymm h.1 (hdx ▸ h.2)
  · rw [LineSetup.minorSteps_eq_iff hdx, LineSetup.error, Int.toNat_of_nonneg hdx.le]
    omega

end

namespace Machine

/-! ### The loop in closed form -/

section
variable {l : LineSetup}

theorem linePoint_eq (l : LineSetup) (k : Nat) :
    linePoint l k = l.emitted (l.u0 + k) (l.v0 + l.ystep * l.minorSteps k) := rfl

theorem lineWalk_succ (l : LineSetup) (n : Nat) (u v err : Int) : lineWalk l (n + 1) u v err = l.emitted u v ::
    (if err - l.dy < 0 then lineWalk l n (u + 1) (v + l.ystep) (err - l.dy + l.dx)
     else lineWalk l n (u + 1) v (err - l.dy)) := rfl

theorem lineWalk_eq_map_linePoint (h : l.Ordered) (n k : Nat) :
    lineWalk l n (l.u0 + k) (l.v0 + l.ystep * l.minorSteps k) (l.error k (l.minorSteps k)) =
      (List.range' k n).map (linePoint l) := by
  induction n generalizing k with
  | zero => rfl
  | succ n ih =>
    have hmajor : l.u0 + (k : Int) + 1 = l.u0 + (k + 1 : Nat) := by omega
    rw [lineWalk_succ, List.range'_succ, List.map_cons, ← linePoint_eq, ← ih (k + 1), h.minorSteps_succ k, hmajor]
    split_ifs with hneg
    · rw [LineSetup.error_add_one, LineSetup.error_succ, mul_add_one, add_assoc]
    · rw [LineSetup.error_succ]

theorem linePoints_eq_map (x0 y0 x1 y1 : Int) : linePoints x0 y0 x1 y1 =
    (List.range ((lineSetup x0 y0 x1 y1).dx.toNat + 1)).map (linePoint (lineSetup x0 y0 x1 y1)) := by
  have hwalk := lineWalk_eq_map_linePoint (lineSetup_ordered x0 y0 x1 y1) ((lineSetup x0 y0 x1 y1).dx.toNat + 1) 0
  rw [(lineSetup_ordered x0 y0 x1 y1).minorSteps_zero, ← List.range_eq_range'] at hwalk
  simpa [LineSetup.error, linePoints] using hwalk

/-- Settles O28: `minorSteps` keeps the error term in its bounds, and the error term less `dx div 2` is `dx` times the distance
from the true line. -/
theorem lineClosedForm : Obligations.LineClosedForm := by
  refine fun x0 y0 x1 y1 => ⟨linePoints_eq_map x0 y0 x1 y1, fun k _ => ?_⟩
  obtain ⟨hlow, hhigh⟩ := (lineSetup_ordered x0 y0 x1 y1).error_bounds k
  rw [LineSetup.error, LineSetup.minorSteps] at hlow hhigh
  omega

/-! ### The points one by one -/

theorem linePoint_injective (l : LineSetup) : Function.Injective (linePoint l) := by
  intro j k hjk
  obtain ⟨hmajor, -⟩ := LineSetup.emitted_inj.1 hjk
  omega

theorem linePoint_zero (h : l.Ordered) : linePoint l 0 = l.emitted l.u0 l.v0 := by
  rw [linePoint_eq, h.minorSteps_zero, mul_zero, Nat.cast_zero, add_zero, add_zero]

theorem linePoint_dx (h : l.Ordered) :
    linePoint l l.dx.toNat = l.emitted (l.u0 + l.dx) (l.v0 + l.ystep * l.dy) := by
  rw [linePoint_eq, h.minorSteps_dx, Int.toNat_of_nonneg h.dx_nonneg]

/-- One step: the major coordinate grows by 1, the minor one stays or moves by `ystep`. -/
theorem linePoint_succ (h : l.Ordered) (k : Nat) : ∃ u v v', (v' = v ∨ v' = v + l.ystep) ∧
    linePoint l k = l.emitted u v ∧ linePoint l (k + 1) = l.emitted (u + 1) v' := by
  refine ⟨_, _, l.v0 + l.ystep * l.minorSteps (k + 1), ?_, linePoint_eq l k, ?_⟩
  · rw [h.minorSteps_succ]
    split_ifs
    · exact .inr (by rw [mul_add_one, add_assoc])
    · exact .inl rfl
  · rw [linePoint_eq, Nat.cast_succ, add_assoc]

end

/-! ### The list of points -/

section
variable (x0 y0 x1 y1 : Int)

theorem linePoints_comm : linePoints x0 y0 x1 y1 = linePoints x1 y1 x0 y0 := by
  rw [linePoints_eq_map, linePoints_eq_map, lineSetup_comm]

theorem length_linePoints :
    (linePoints x0 y0 x1 y1).length = max (x1 - x0).natAbs (y1 - y0).natAbs + 1 := by
  rw [linePoints_eq_map, List.length_map, List.length_range, lineSetup_dx, Int.toNat_natCast]

theorem nodup_linePoints : (linePoints x0 y0 x1 y1).Nodup := by
  rw [linePoints_eq_map]
  exact List.nodup_range.map (linePoint_injective _)

variable {x0 y0 x1 y1}

theorem linePoint_of_getElem?_linePoints {k : Nat} {q : Int × Int} (h : (linePoints x0 y0 x1 y1)[k]? = some q) :
    linePoint (lineSetup x0 y0 x1 y1) k = q := by
  rw [linePoints_eq_map, List.getElem?_map, Option.map_eq_some_iff] at h
  obtain ⟨j, hj, rfl⟩ := h
  obtain ⟨_, hj⟩ := List.getElem?_eq_some_iff.1 hj
  rw [← hj, List.getElem_range]

/-- Where the first end has the smaller major coordinate, it is emitted first and the other end last. -/
theorem ends_linePoints
    (h : ((y1 - y0).natAbs > (x1 - x0).natAbs ∧ y0 ≤ y1) ∨ (¬ (y1 - y0).natAbs > (x1 - x0).natAbs ∧ x0 ≤ x1)) :
    (linePoints x0 y0 x1 y1).head? = some (x0, y0) ∧ (linePoints x0 y0 x1 y1).getLast? = some (x1, y1) := by
  obtain ⟨hstart, hfinish⟩ := emitted_lineSetup rfl h
  rw [linePoints_eq_map]
  constructor
  · rw [List.range_succ_eq_map, List.map_cons, List.head?_cons, linePoint_zero (lineSetup_ordered ..), hstart]
  · rw [List.range_succ, List.map_append, List.map_singleton, List.getLast?_concat, linePoint_dx (lineSetup_ordered ..),
      hfinish]

/-- From one emitted pixel to the next, for either role of the axes. -/
theorem successive_linePoints {k : Nat} {a b : Int × Int} (ha : (linePoints x0 y0 x1 y1)[k]? = some a)
    (hb : (linePoints x0 y0 x1 y1)[k + 1]? = some b) :
    ((y1 - y0).natAbs > (x1 - x0).natAbs →
      b.2 = a.2 + 1 ∧ (b.1 = a.1 ∨ b.1 = a.1 + (lineSetup x0 y0 x1 y1).ystep)) ∧
    (¬ (y1 - y0).natAbs > (x1 - x0).natAbs →
      b.1 = a.1 + 1 ∧ (b.2 = a.2 ∨ b.2 = a.2 + (lineSetup x0 y0 x1 y1).ystep)) := by
  obtain rfl := linePoint_of_getElem?_linePoints ha
  obtain rfl := linePoint_of_getElem?_linePoints hb
  obtain ⟨u, v, v', hminor, hk, hsucc⟩ := linePoint_succ (lineSetup_ordered x0 y0 x1 y1) k
  rw [hk, hsucc]
  constructor <;> intro hsteep
  · have hemitted := LineSetup.emitted_of_steep (lineSetup_steep.2 hsteep)
    rw [hemitted, hemitted]
    exact ⟨rfl, hminor⟩
  · have hemitted := LineSetup.emitted_of_not_steep (mt lineSetup_steep.1 hsteep)
    rw [hemitted, hemitted]
    exact ⟨rfl, hminor⟩

end

/-! ### The command -/

section
variable (x0 y0 x1 y1 : Half) (c : Colour) (s : State)

theorem exec_line : exec (.line x0 y0 x1 y1 c) s =
    .next (s.drawn (plot s.params c (linePoints x0.toInt y0.toInt x1.toInt y1.toInt))) := rfl

theorem exec_line_comm : exec (.line x0 y0 x1 y1 c) s = exec (.line x1 y1 x0 y0 c) s := by
  rw [exec_line, exec_line, linePoints_comm]

end

/-- Settles O27: LINE plots `linePoints`, each point once. -/
theorem line : Obligations.Line := fun x0 y0 x1 y1 c =>
  ⟨fun hasPacer => decode_encode_of_not_pacer hasPacer (i := .line x0 y0 x1 y1 c) rfl,
    fun s => ⟨_, exec_line x0 y0 x1 y1 c s, s.onlyDrew_drawn _, s.recoloured_plot c (nodup_linePoints ..)⟩⟩

/-- Settles O29: a law by a law; the second end first is the first law followed by the case of the first end first. -/
theorem lineLaws : Obligations.LineLaws := by
  refine ⟨exec_line_comm, fun x0 y0 x1 y1 => ⟨linePoints_comm x0 y0 x1 y1, length_linePoints x0 y0 x1 y1,
    nodup_linePoints x0 y0 x1 y1, ends_linePoints, fun h => ?_, lineSetup_ystep x0 y0 x1 y1,
    fun _ _ _ => successive_linePoints⟩⟩
  rw [linePoints_comm]
  exact ends_linePoints (by omega)

end Machine

end Sys2Proof
end

section
/-!
PROOFS. The byte-wise form of the column-byte write (43_bitmap_raw.md R147, R148): the byte of a band is a column byte whose top
is the top of the band, and any column byte is the two that `BandSplitOp` cuts it into.
-/

namespace Sys2Proof

/-! ### The points of a column byte -/

/-- A byte has no bit above bit 7, so the row needs no upper bound. -/
theorem mem_columnPoints_iff_getLsbD {cx ytop px py : Int} {b : Byte} :
    (px, py) ∈ columnPoints cx ytop b ↔ px = cx ∧ ytop ≤ py ∧ b.getLsbD (py - ytop).toNat = true := by
  rw [mem_columnPoints]
  refine and_congr_right fun _ => ⟨?_, fun ⟨htop, hbit⟩ => ⟨(py - ytop).toNat, BitVec.lt_of_getLsbD hbit, hbit, ?_⟩⟩
  · rintro ⟨j, -, hbit, hrow⟩
    obtain rfl : (py - ytop).toNat = j := by omega
    exact ⟨by omega, hbit⟩
  · omega

/-- A column byte whose top is the top of a band holds pixels of that band. -/
theorem mem_columnPoints_band {cx band px py : Int} {b : Byte} :
    (px, py) ∈ columnPoints cx (8 * band) b ↔ (px = cx ∧ py / 8 = band) ∧ b.getLsbD (bitIndex py) = true := by
  rw [mem_columnPoints_iff_getLsbD, and_assoc]
  refine and_congr_right fun _ => ⟨fun ⟨htop, hbit⟩ => ?_, ?_⟩
  · have hlt := BitVec.lt_of_getLsbD hbit
    have hrow : (py - 8 * band).toNat = bitIndex py := by unfold bitIndex; omega
    exact ⟨by omega, hrow ▸ hbit⟩
  · rintro ⟨rfl, hbit⟩
    have hrow : (py - 8 * (py / 8)).toNat = bitIndex py := by unfold bitIndex; omega
    exact ⟨by omega, hrow.symm ▸ hbit⟩

/-- The cut of R147: a column byte that starts `bitIndex y` rows inside a band is a part in that band and a part in the next. -/
theorem mem_columnPoints_split {cx y a px py : Int} {b : Byte} :
    (px, py) ∈ columnPoints cx (y + 8 * a) b ↔
      (px, py) ∈ columnPoints cx (8 * (y / 8 + a)) (b <<< bitIndex y) ∨
        (px, py) ∈ columnPoints cx (8 * (y / 8 + a + 1)) (b >>> (8 - bitIndex y)) := by
  have hoff : (bitIndex y : Int) = y % 8 := by unfold bitIndex; omega
  have hrow : (bitIndex py : Int) = py % 8 := by unfold bitIndex; omega
  rw [mem_columnPoints_iff_getLsbD, mem_columnPoints_band, mem_columnPoints_band, BitVec.getLsbD_shiftLeft,
    BitVec.getLsbD_ushiftRight]
  generalize bitIndex y = off at hoff ⊢
  generalize bitIndex py = row at hrow ⊢
  constructor
  · rintro ⟨hcolumn, htop, hbit⟩
    have hlt := BitVec.lt_of_getLsbD hbit
    by_cases hband : py / 8 = y / 8 + a
    · have hpart : (py - (y + 8 * a)).toNat = row - off := by omega
      have hlow : row < 8 := by omega
      have habove : ¬ row < off := by omega
      exact .inl ⟨⟨hcolumn, hband⟩, by simp [← hpart, hbit, hlow, habove]⟩
    · have hpart : (py - (y + 8 * a)).toNat = 8 - off + row := by omega
      exact .inr ⟨⟨hcolumn, by omega⟩, hpart ▸ hbit⟩
  · rintro (⟨⟨hcolumn, hband⟩, hbit⟩ | ⟨⟨hcolumn, hband⟩, hbit⟩)
    · simp only [Bool.and_eq_true, decide_eq_true_eq, Bool.not_eq_true', decide_eq_false_iff_not] at hbit
      obtain ⟨⟨-, habove⟩, hbit⟩ := hbit
      have hpart : (py - (y + 8 * a)).toNat = row - off := by omega
      exact ⟨hcolumn, by omega, hpart.symm ▸ hbit⟩
    · have hpart : (py - (y + 8 * a)).toNat = 8 - off + row := by omega
      exact ⟨hcolumn, by omega, hpart.symm ▸ hbit⟩

/-! ### The byte of a band -/

@[simp] theorem background_bandPart (p : Params) (c : Colour) (cx band : Int) (v : Byte) (m : Memory) :
    (bandPart p c cx band v m).background = m.background := by
  unfold bandPart
  split_ifs <;> rfl

theorem Params.byteIndex_bandTop (p : Params) (x band : Int) :
    p.byteIndex x (8 * band) = (x + band * p.width).toNat := by
  rw [Params.byteIndex, Int.mul_ediv_cancel_left _ (by decide)]

/-- A byte of a framebuffer holds the pixels of one column in one band. -/
theorem Params.byteIndex_eq_bandTop_iff {p : Params} {px py cx band : Int} (hs : p.onScreen px py)
    (htop : p.onScreen cx (8 * band)) : p.byteIndex px py = p.byteIndex cx (8 * band) ↔ px = cx ∧ py / 8 = band := by
  constructor
  · intro hindex
    have hs' : p.onScreen px (8 * (py / 8)) := ⟨hs.1, by omega⟩
    obtain ⟨hcolumn, hband⟩ := Params.pixel_map_inj hs' htop ((p.byteIndex_bandTop px (py / 8)).trans hindex)
      (by unfold bitIndex; omega)
    exact ⟨hcolumn, by omega⟩
  · rintro ⟨rfl, rfl⟩
    exact (p.byteIndex_bandTop px (py / 8)).symm

/-- A byte whose top is the top of a band has one part, itself; any other has two. -/
theorem bandSplitOp_eq (p : Params) (c : Colour) (cx y a : Int) (b : Byte) (m : Memory) : bandSplitOp p c cx y a b m =
    if bitIndex y = 0 then bandPart p c cx (y / 8 + a) b m
    else bandPart p c cx (y / 8 + a + 1) (b >>> (8 - bitIndex y))
      (bandPart p c cx (y / 8 + a) (b <<< bitIndex y) m) := by
  unfold bandSplitOp
  by_cases hoff : bitIndex y = 0
  · simp [hoff]
  · simp only [if_neg hoff]

section
variable {p : Params} (h8 : p.height % 8 = 0) (c : Colour) (cx band y a : Int) (v b : Byte) {m : Memory}
include h8

/-- `BandSplitOp` writes a byte where the pixel at the top of its band is on screen. -/
theorem bandPart_eq : bandPart p c cx band v m =
    if p.onScreen cx (8 * band) then applyAt c (p.byteIndex cx (8 * band)) v m else m := by
  have hheight := Params.eight_mul_bands h8
  rw [bandPart, Params.byteIndex_bandTop, Int.add_comm]
  exact if_congr (and_congr_right fun _ => by omega) rfl rfl

/-- Seen through the pixels, a band's part is a column byte whose top is the top of the band. -/
theorem pixelGet_bandPart {px py : Int} (hs : p.onScreen px py) :
    pixelGet p px py (bandPart p c cx band v m) =
      if (px, py) ∈ columnPoints cx (8 * band) v then c.applyBit (pixelGet p px py m) else pixelGet p px py m := by
  simp only [bandPart_eq h8, mem_columnPoints_band]
  by_cases htop : p.onScreen cx (8 * band)
  · simp only [if_pos htop, applyAt, pixelGet, if_pos hs, Memory.read_write, Params.byteIndex_eq_bandTop_iff hs htop]
    by_cases hbyte : px = cx ∧ py / 8 = band
    · rw [if_pos hbyte, Colour.getLsbD_apply _ _ _ _ (bitIndex_lt py),
        ← (Params.byteIndex_eq_bandTop_iff hs htop).2 hbyte]
      simp only [hbyte, and_self, true_and]
    · simp only [hbyte, false_and, if_false]
  · have hbyte : ¬(px = cx ∧ py / 8 = band) := by
      rintro ⟨rfl, rfl⟩
      exact htop ⟨hs.1, by omega⟩
    simp only [if_neg htop, hbyte, false_and, if_false]

theorem read_bandPart_of_le {i : Nat} (hi : p.fbSize ≤ i) : (bandPart p c cx band v m).read i = m.read i := by
  rw [bandPart_eq h8]
  split_ifs with htop
  · exact Memory.read_write_of_ne _ _ ((Params.byteIndex_lt h8 htop).trans_le hi).ne'
  · rfl

theorem wf_bandPart (hm : m.wf p.fbSize) : (bandPart p c cx band v m).wf p.fbSize := by
  rw [bandPart_eq h8]
  split_ifs with htop
  · exact Memory.wf_write hm (Params.byteIndex_lt h8 htop) _
  · exact hm

/-! ### The two forms agree -/

/-- Seen through the pixels, `BandSplitOp` is the column byte it cuts: no pixel is in both parts. -/
theorem pixelGet_bandSplitOp {px py : Int} (hs : p.onScreen px py) :
    pixelGet p px py (bandSplitOp p c cx y a b m) =
      if (px, py) ∈ columnPoints cx (y + 8 * a) b then c.applyBit (pixelGet p px py m) else pixelGet p px py m := by
  by_cases hoff : bitIndex y = 0
  · have htop : y + 8 * a = 8 * (y / 8 + a) := by unfold bitIndex at hoff; omega
    rw [bandSplitOp_eq, if_pos hoff, htop, pixelGet_bandPart h8 _ _ _ _ hs]
  · rw [bandSplitOp_eq, if_neg hoff, pixelGet_bandPart h8 _ _ _ _ hs, pixelGet_bandPart h8 _ _ _ _ hs]
    simp only [mem_columnPoints_split]
    by_cases hlower : (px, py) ∈ columnPoints cx (8 * (y / 8 + a + 1)) (b >>> (8 - bitIndex y))
    · have hupper : (px, py) ∉ columnPoints cx (8 * (y / 8 + a)) (b <<< bitIndex y) := by
        rw [mem_columnPoints_band] at hlower ⊢
        omega
      simp only [hlower, hupper, if_true, if_false, or_true]
    · simp only [hlower, if_false, or_false]

theorem read_bandSplitOp_of_le {i : Nat} (hi : p.fbSize ≤ i) : (bandSplitOp p c cx y a b m).read i = m.read i := by
  rw [bandSplitOp_eq]
  split_ifs
  · exact read_bandPart_of_le h8 _ _ _ _ hi
  · exact (read_bandPart_of_le h8 _ _ _ _ hi).trans (read_bandPart_of_le h8 _ _ _ _ hi)

theorem wf_bandSplitOp (hm : m.wf p.fbSize) : (bandSplitOp p c cx y a b m).wf p.fbSize := by
  rw [bandSplitOp_eq]
  split_ifs
  · exact wf_bandPart h8 _ _ _ _ hm
  · exact wf_bandPart h8 _ _ _ _ (wf_bandPart h8 _ _ _ _ hm)

theorem read_plot_of_le (pts : List (Int × Int)) {i : Nat} (hi : p.fbSize ≤ i) : (plot p c pts m).read i = m.read i :=
  read_plot_of_ne p c pts m fun _ _ hs => ((Params.byteIndex_lt h8 hs).trans_le hi).ne

/-- The two forms leave bytes that read alike: a byte of the framebuffer is its pixels, and no other byte is written. -/
theorem read_bandSplitOp (m : Memory) (i : Nat) :
    (bandSplitOp p c cx y a b m).read i = (columnByteOp p c cx (y + 8 * a) b m).read i := by
  rcases lt_or_ge i p.fbSize with hi | hi
  · refine read_eq_of_pixelGet_eq h8 hi fun px py hs => ?_
    rw [pixelGet_bandSplitOp h8 c cx y a b hs, columnByteOp, pixelGet_plot p c (nodup_columnPoints ..) m hs]
  · rw [read_bandSplitOp_of_le h8 c cx y a b hi, columnByteOp, read_plot_of_le h8 c _ hi]

end

@[simp] theorem background_bandSplitOp (p : Params) (c : Colour) (cx y a : Int) (b : Byte) (m : Memory) :
    (bandSplitOp p c cx y a b m).background = m.background := by
  rw [bandSplitOp_eq]
  split_ifs <;> simp

/-- Settles O30: the bytes read alike, so canonical memories, which have one background, are equal. -/
theorem bandSplitAgrees : Obligations.BandSplitAgrees := fun p c cx y a b m h8 =>
  ⟨read_bandSplitOp h8 c cx y a b m, fun hm =>
    Memory.ext_read (wf_bandSplitOp h8 c cx y a b hm) (wf_plot h8 c _ hm)
      (by rw [background_bandSplitOp, columnByteOp, background_plot]) (read_bandSplitOp h8 c cx y a b m)⟩

end Sys2Proof
end

section
/-!
PROOFS. The raw bitmap blitter DRAWBITMAP, where its bytes are inside asset storage (43_bitmap_raw.md R145, R149, R150).
-/

namespace Sys2Proof

/-- Toggled points are restored when they are toggled again. -/
theorem plot_toggle_toggle {p : Params} {m : Memory} (h8 : p.height % 8 = 0) (hm : m.wf p.fbSize)
    {pts : List (Int × Int)} (hn : pts.Nodup) : plot p .toggle pts (plot p .toggle pts m) = m := by
  refine Memory.ext_pixelGet h8 (wf_plot h8 _ _ (wf_plot h8 _ _ hm)) hm (by simp) fun px py hs => ?_
  rw [pixelGet_plot p _ hn _ hs, pixelGet_plot p _ hn _ hs]
  split_ifs
  · exact Colour.applyBit_toggle_toggle _
  · rfl

/-! ### The points of a bitmap -/

section
variable {w band col bands : Nat} (hcol : col < w)
include hcol

/-- The bytes of a band are those from `band * w` upwards. -/
theorem band_mul_add_div : (band * w + col) / w = band := by
  rw [Nat.mul_comm, Nat.mul_add_div (Nat.zero_lt_of_lt hcol), Nat.div_eq_of_lt hcol, Nat.add_zero]

/-- A byte is one of a bitmap's where its band is one of the bitmap's. -/
theorem band_mul_add_lt_iff : band * w + col < w * bands ↔ band < bands := by
  rw [Nat.mul_comm w, ← Nat.div_lt_iff_lt_mul (Nat.zero_lt_of_lt hcol), band_mul_add_div hcol]

end

/-- The points that are plotted are the pixels of the bitmap whose bit is 1. -/
theorem mem_blitPoints_iff_bitmapPixel {x y px py : Int} {w : Nat} {bs : List Byte} (hw : w = 0 → bs = []) :
    (px, py) ∈ blitPoints x y w 0 bs ↔ Machine.bitmapPixel w bs (px - x) (py - y) := by
  simp only [mem_blitPoints, mem_columnPoints, Nat.zero_add]
  constructor
  · rintro ⟨n, hn, hcolumn, j, hj, hbit, hrow⟩
    have hpos : 0 < w := Nat.pos_of_ne_zero fun h0 => by simp [hw h0] at hn
    have hmod := Nat.mod_lt n hpos
    have hdiv := Nat.div_add_mod' n w
    generalize n % w = col at hcolumn hmod hdiv
    generalize n / w = band at hrow hdiv
    obtain rfl : (px - x).toNat = col := by omega
    obtain rfl : ((py - y) / 8).toNat = band := by omega
    obtain rfl : ((py - y) % 8).toNat = j := by omega
    exact ⟨by omega, by omega, hdiv.symm ▸ hbit⟩
  · rintro ⟨hcolumn, hrow, hbit⟩
    have hpos : 0 < w := by omega
    have hcol : (px - x).toNat < w := by omega
    refine ⟨_, ?_, ?_, ((py - y) % 8).toNat, by omega, hbit, ?_⟩
    · by_contra hlong
      rw [List.getD_eq_default _ _ (Nat.le_of_not_lt hlong)] at hbit
      simp at hbit
    · rw [Nat.mul_add_mod_of_lt hcol]
      omega
    · rw [band_mul_add_div hcol]
      omega

/-! ### The bytes of a bitmap in asset storage -/

/-- The `n` bytes of asset storage from `src` upwards. -/
def assetBitmap (p : Params) (src n : Nat) : List Byte := (List.range n).map fun i => p.asset.read (src + i)

theorem assetBytes_of_inside {p : Params} {src n : Nat} (h : n = 0 ∨ src + n ≤ p.assetSize) :
    assetBytes p src n = some (assetBitmap p src n) := by
  rw [assetBytes_eq, if_pos h]
  rfl

theorem getLsbD_assetBitmap (p : Params) (src n i j : Nat) : ((assetBitmap p src n).getD i 0).getLsbD j = true ↔
    i < n ∧ (p.asset.read (src + i)).getLsbD j = true := by
  by_cases hi : i < n <;> simp [assetBitmap, hi]

/-- Pixel `(px, py)` is under a 1 bit of the bitmap that DRAWBITMAP's operands name (R145, R149). -/
abbrev UnderBitmap (p : Params) (x y : Half) (src : Word) (w h : Half) (px py : Int) : Prop :=
  (x.toInt ≤ px ∧ px < x.toInt + w.toNat) ∧ (y.toInt ≤ py ∧ py < y.toInt + 8 * ceil8 h.toNat) ∧
    (p.asset.read (src.toNat + ((py - y.toInt) / 8).toNat * w.toNat + (px - x.toInt).toNat)).getLsbD
      ((py - y.toInt) % 8).toNat = true

/-- The points that DRAWBITMAP plots. -/
def Params.bitmapPoints (p : Params) (x y : Half) (src : Word) (w h : Half) : List (Int × Int) :=
  blitPoints x.toInt y.toInt w.toNat 0 (assetBitmap p src.toNat (w.toNat * ceil8 h.toNat))

section
variable {p : Params} {x y : Half} {src : Word} {w h : Half} {px py : Int}

theorem nodup_bitmapPoints (p : Params) (x y : Half) (src : Word) (w h : Half) : (p.bitmapPoints x y src w h).Nodup :=
  nodup_blitPoints ..

theorem mem_bitmapPoints : (px, py) ∈ p.bitmapPoints x y src w h ↔ UnderBitmap p x y src w h px py := by
  have hempty : w.toNat = 0 → assetBitmap p src.toNat (w.toNat * ceil8 h.toNat) = [] := fun h0 => by
    simp [h0, assetBitmap]
  rw [Params.bitmapPoints, mem_blitPoints_iff_bitmapPixel hempty, Machine.bitmapPixel, getLsbD_assetBitmap]
  have hcolumn : 0 ≤ px - x.toInt ∧ px - x.toInt < w.toNat ↔ x.toInt ≤ px ∧ px < x.toInt + w.toNat := by omega
  rw [hcolumn, ← Nat.add_assoc]
  refine and_congr_right fun hcol => ?_
  rw [band_mul_add_lt_iff (by omega), ← and_assoc]
  exact and_congr_left fun _ => by omega

end

namespace Machine

/-! ### The command -/

/-- The bytes that DRAWBITMAP needs are inside asset storage, or it needs none (20_memory.md R56). -/
abbrev BitmapInside (p : Params) (src : Word) (w h : Half) : Prop :=
  w.toNat * ceil8 h.toNat = 0 ∨ src.toNat + w.toNat * ceil8 h.toNat ≤ p.assetSize

section
variable {s t u : State} {x y w h : Half} {src : Word} {c : Colour}

theorem exec_drawbitmap_of_inside (hin : BitmapInside s.params src w h) : exec (.drawbitmap x y src w h c) s =
    .next (s.drawn (plot s.params c (s.params.bitmapPoints x y src w h))) := by
  have hread : assetBytes s.params (zext32 src) (zext16 w * ceil8 (zext16 h)) =
      some (assetBitmap s.params src.toNat (w.toNat * ceil8 h.toNat)) := assetBytes_of_inside hin
  have hblit : blitBytes s.params c (sext16 x) (sext16 y) (zext16 w) 0
      (assetBitmap s.params src.toNat (w.toNat * ceil8 h.toNat)) =
      plot s.params c (s.params.bitmapPoints x y src w h) := funext (blitBytes_eq_plot s.params c _ _ _ 0 _)
  simp only [exec, execDrawbitmap, hread, hblit]

theorem drawbitmap_eq_drawn (hin : BitmapInside s.params src w h) (ht : exec (.drawbitmap x y src w h c) s = .next t) :
    s.drawn (plot s.params c (s.params.bitmapPoints x y src w h)) = t := by
  rw [exec_drawbitmap_of_inside hin] at ht
  injection ht

/-! ### The laws (R150) -/

/-- DRAWBITMAP seen through a pixel of the active buffer. -/
theorem pixel_of_drawbitmap (hin : BitmapInside s.params src w h) (ht : exec (.drawbitmap x y src w h c) s = .next t)
    {px py : Int} (hs : s.params.onScreen px py) : t.pixel s.active px py =
      if UnderBitmap s.params x y src w h px py then c.applyBit (s.pixel s.active px py)
      else s.pixel s.active px py := by
  obtain rfl := drawbitmap_eq_drawn hin ht
  rw [State.pixel_drawn, pixelGet_plot _ _ (nodup_bitmapPoints ..) _ hs]
  exact if_congr mem_bitmapPoints rfl rfl

/-- A bitmap of 0xFF bytes has a 1 bit over each pixel of its rectangle. -/
theorem underBitmap_iff_inRect {p : Params} (h8 : h.toNat % 8 = 0)
    (hff : ∀ n < w.toNat * ceil8 h.toNat, p.asset.read (src.toNat + n) = 0xFF) {px py : Int} :
    UnderBitmap p x y src w h px py ↔ InRect x y w h px py := by
  have hheight : 8 * (ceil8 h.toNat : Int) = h.toNat := by unfold ceil8; omega
  rw [UnderBitmap, hheight]
  refine and_congr_right fun hx => and_iff_left_of_imp fun hy => ?_
  have hbyte := (band_mul_add_lt_iff (bands := ceil8 h.toNat) (band := ((py - y.toInt) / 8).toNat)
    (col := (px - x.toInt).toNat) (w := w.toNat) (by omega)).2 (by omega)
  have hones : (0xFF : Byte) = BitVec.allOnes 8 := rfl
  rw [Nat.add_assoc, hff _ hbyte, hones, BitVec.getLsbD_allOnes]
  exact decide_eq_true (by omega)

theorem drawbitmap_eq_fillrect (hp : s.params.height % 8 = 0) (hm : s.MemoriesWf) (hin : BitmapInside s.params src w h)
    (h8 : h.toNat % 8 = 0) (hff : ∀ n < w.toNat * ceil8 h.toNat, s.params.asset.read (src.toNat + n) = 0xFF) :
    exec (.drawbitmap x y src w h c) s = exec (.fillrect x y w h c) s := by
  rw [exec_drawbitmap_of_inside hin, exec_fillrect, State.drawn, State.draw,
    plot_congr hp (State.wf_buf hm s.active) c (nodup_bitmapPoints ..) (nodup_rectPoints ..) fun px py hs => by
      rw [mem_bitmapPoints, underBitmap_iff_inRect h8 hff, mem_rectPoints_iff_inRect hs]]
  rfl

/-- `SET` and then `CLEAR`: the second command recolours the pixels that the first one did. -/
theorem pixel_of_drawbitmap_set_clear (hin : BitmapInside s.params src w h)
    (ht : exec (.drawbitmap x y src w h .set) s = .next t) (hu : exec (.drawbitmap x y src w h .clear) t = .next u)
    {px py : Int} (hs : s.params.onScreen px py) : u.pixel s.active px py =
      if UnderBitmap s.params x y src w h px py then false else s.pixel s.active px py := by
  have hfirst := pixel_of_drawbitmap hin ht hs
  obtain rfl := drawbitmap_eq_drawn hin ht
  have hsecond := pixel_of_drawbitmap (s := s.drawn _) hin hu hs
  rw [State.drawn_active, State.drawn_params, hfirst] at hsecond
  rw [hsecond]
  split_ifs <;> rfl

/-- `TOGGLE` twice leaves the buffer as it was. -/
theorem drawbitmap_toggle_toggle (hp : s.params.height % 8 = 0) (hm : s.MemoriesWf)
    (hin : BitmapInside s.params src w h) (ht : exec (.drawbitmap x y src w h .toggle) s = .next t)
    (hu : exec (.drawbitmap x y src w h .toggle) t = .next u) : u = s.finish := by
  obtain rfl := drawbitmap_eq_drawn hin ht
  obtain rfl := drawbitmap_eq_drawn (s := s.drawn _) hin hu
  rw [State.drawn_params, State.drawn_drawn]
  exact s.drawn_of_fixed (plot_toggle_toggle hp (State.wf_buf hm _) (nodup_bitmapPoints ..))

end

/-! ### The statements -/

/-- Settles O31: DRAWBITMAP plots `bitmapPoints`, each once, and these are the pixels under the 1 bits. -/
theorem drawbitmap : Obligations.Drawbitmap := fun x y src w h c =>
  ⟨fun hasPacer => decode_encode_of_not_pacer hasPacer (i := .drawbitmap x y src w h c) rfl,
    fun s hin => ⟨_, exec_drawbitmap_of_inside hin, s.onlyDrew_drawn _,
      (s.recoloured_plot c (nodup_bitmapPoints ..)).congr fun _ _ _ => mem_bitmapPoints⟩⟩

/-- Settles O33: a lemma for each of the three laws. -/
theorem bitmapLaws : Obligations.BitmapLaws := by
  intro x y src w h c s hp hm hin
  obtain ⟨-, ⟨-, -, h8⟩, -⟩ := hp
  refine ⟨fun ⟨hrows, hff⟩ => drawbitmap_eq_fillrect h8 hm hin hrows hff,
    fun t u ht hu px py hs => pixel_of_drawbitmap_set_clear hin ht hu hs, fun t u ht hu => ?_⟩
  obtain rfl := drawbitmap_toggle_toggle h8 hm hin ht hu
  exact ⟨rfl, rfl⟩

end Machine

end Sys2Proof
end

section
/-!
PROOFS. The compressed decoder on a stream that its grammar gives (44_bitmap_rle.md R160 to R168). What the decoder registers
hold is a function of how many bits were taken and which pixels were emitted, so that each part of the decoder has one equation.
-/

namespace Sys2Proof.Machine

/-! ### Pixels packed into column bytes (R165) -/

/-- Column byte `i` of a sequence of pixels: the first of its 8 pixels in bit 0, missing ones 0. -/
def pixelByte (px : List Bool) (i : Nat) : Byte := BitVec.ofFnLE fun j : Fin 8 => px.getD (8 * i + j) false

theorem getLsbD_pixelByte (px : List Bool) (i : Nat) {j : Nat} (hj : j < 8) :
    (pixelByte px i).getLsbD j = px.getD (8 * i + j) false := by
  rw [pixelByte, BitVec.getLsbD_ofFnLE, dif_pos hj]

theorem pixelByte_of_length_le {px : List Bool} {i : Nat} (h : px.length ≤ 8 * i) : pixelByte px i = 0 := by
  refine BitVec.eq_of_getLsbD_eq fun j hj => ?_
  rw [getLsbD_pixelByte _ _ hj, List.getD_eq_default _ _ (by omega)]
  simp

theorem pixelByte_append_of_le_length {px qx : List Bool} {i : Nat} (h : 8 * i + 8 ≤ px.length) :
    pixelByte (px ++ qx) i = pixelByte px i := by
  refine BitVec.eq_of_getLsbD_eq fun j hj => ?_
  rw [getLsbD_pixelByte _ _ hj, getLsbD_pixelByte _ _ hj, List.getD_append _ _ _ _ (by omega)]

/-- One more pixel sets, or leaves clear, the next bit of the byte that is being filled. -/
theorem pixelByte_append_singleton (px : List Bool) (colour : Bool) : pixelByte (px ++ [colour]) (px.length / 8) =
    if colour then pixelByte px (px.length / 8) ||| (1#8 <<< (px.length % 8)) else pixelByte px (px.length / 8) := by
  refine BitVec.eq_of_getLsbD_eq fun j hj => ?_
  have hset : (if colour then pixelByte px (px.length / 8) ||| (1#8 <<< (px.length % 8))
      else pixelByte px (px.length / 8)).getLsbD j =
      (px.getD (8 * (px.length / 8) + j) false || (colour && decide (j = px.length % 8))) := by
    cases colour <;> simp [getLsbD_pixelByte _ _ hj, getLsbD_one_shiftLeft _ _ hj]
  rw [hset, getLsbD_pixelByte _ _ hj]
  have hlen := Nat.div_add_mod px.length 8
  rcases lt_trichotomy j (px.length % 8) with hlt | rfl | hgt
  · rw [List.getD_append _ _ _ _ (by omega)]
    simp [hlt.ne]
  · rw [hlen]
    simp
  · rw [List.getD_eq_default _ _ (by simp; omega), List.getD_eq_default _ _ (by omega)]
    simp [hgt.ne']

/-- The bytes flushed once the pixels `px` have been emitted, newest first. -/
def flushed (px : List Bool) : List Byte := ((List.range (px.length / 8)).map (pixelByte px)).reverse

theorem flushed_append_singleton (px : List Bool) (colour : Bool) : flushed (px ++ [colour]) =
    if px.length % 8 = 7 then pixelByte (px ++ [colour]) (px.length / 8) :: flushed px else flushed px := by
  have hkeep : (List.range (px.length / 8)).map (pixelByte (px ++ [colour])) =
      (List.range (px.length / 8)).map (pixelByte px) :=
    List.map_congr_left fun i hi => pixelByte_append_of_le_length (by have := List.mem_range.1 hi; omega)
  rw [flushed, flushed, List.length_append, List.length_singleton]
  split_ifs with h
  · rw [show (px.length + 1) / 8 = px.length / 8 + 1 by omega, List.range_succ, List.map_append, hkeep]
    simp
  · rw [show (px.length + 1) / 8 = px.length / 8 by omega, hkeep]

/-! ### The decoder registers (10_state.md R31) -/

section
variable {p : Params} {src : Nat}

/-- The decoder registers once `k` bits of the stream at `src` have been taken and the pixels `px` have been emitted. -/
def Rle.after (p : Params) (src k : Nat) (px : List Bool) : Rle where
  byte := if k = 0 then 0 else p.asset.read (src + (k - 1) / 8)
  bit  := BitVec.twoPow 9 ((k + 7) % 8 + 1)
  pos  := BitVec.ofNat 32 ((k + 7) / 8)
  acc  := pixelByte px (px.length / 8)
  nacc := BitVec.ofNat 4 (px.length % 8)

theorem Rle.after_zero_nil : Rle.after p src 0 [] = Rle.fresh := rfl

/-- A pixel goes into the accumulator, and a full accumulator is flushed (R165). -/
theorem emitPixel_after (k : Nat) (px : List Bool) (colour : Bool) :
    emitPixel colour (Rle.after p src k px) (flushed px) =
      (Rle.after p src k (px ++ [colour]), flushed (px ++ [colour])) := by
  have hnacc : (BitVec.ofNat 4 (px.length % 8)).toNat = px.length % 8 := by
    rw [BitVec.toNat_ofNat]; omega
  have hfull : BitVec.ofNat 4 (px.length % 8) + 1 = 8 ↔ px.length % 8 = 7 := by
    rw [← BitVec.toNat_inj, BitVec.toNat_add, hnacc]
    change (px.length % 8 + 1) % 16 = 8 ↔ _
    omega
  simp only [emitPixel, Rle.after, hnacc, ← pixelByte_append_singleton, hfull, flushed_append_singleton,
    List.length_append, List.length_singleton]
  by_cases h : px.length % 8 = 7
  · have hempty : pixelByte (px ++ [colour]) ((px.length + 1) / 8) = 0 := pixelByte_of_length_le (by simp; omega)
    simp only [h, if_true, hempty, show (px.length + 1) % 8 = 0 by omega]
    rfl
  · simp only [h, if_false, show (px.length + 1) / 8 = px.length / 8 by omega,
      show (px.length + 1) % 8 = px.length % 8 + 1 by omega, BitVec.ofNat_add]
    rfl

theorem emitRun_after (k : Nat) (colour : Bool) (n : Nat) (px : List Bool) :
    emitRun colour n (Rle.after p src k px) (flushed px) =
      (Rle.after p src k (px ++ List.replicate n colour), flushed (px ++ List.replicate n colour)) := by
  induction n generalizing px with
  | zero => simp [emitRun]
  | succ n ih =>
    rw [emitRun, emitPixel_after, ih, List.append_assoc, List.singleton_append, ← List.replicate_succ]

/-! ### The bit reader (R161) -/

/-- Bit `k` of the stream at `src`, where its byte is in asset storage. -/
def streamBit (p : Params) (src k : Nat) : Option Bool :=
  (assetRead p (src + k / 8)).map fun b => b.getLsbD (k % 8)

/-- The stream at `src` has the bits `bs` from its bit `k` upwards, and all are within the count of `RLE_POS`. -/
def StreamHolds (p : Params) (src : Nat) : Nat → List Bool → Prop
  | _, [] => True
  | k, b :: bs => (k < 2 ^ 32 ∧ streamBit p src k = some b) ∧ StreamHolds p src (k + 1) bs

theorem streamHolds_append {k : Nat} {as bs : List Bool} :
    StreamHolds p src k (as ++ bs) ↔ StreamHolds p src k as ∧ StreamHolds p src (k + as.length) bs := by
  induction as generalizing k with
  | nil => simp [StreamHolds]
  | cons a as ih =>
    simp only [List.cons_append, StreamHolds, ih, and_assoc, List.length_cons, Nat.add_assoc, Nat.add_comm 1]

theorem streamHolds_of_forall {k : Nat} {bs : List Bool}
    (h : ∀ i < bs.length, k + i < 2 ^ 32 ∧ streamBit p src (k + i) = some (bs.getD i false)) : StreamHolds p src k bs := by
  induction bs generalizing k with
  | nil => trivial
  | cons b bs ih =>
    refine ⟨by simpa using h 0 (by simp), ih fun i hi => ?_⟩
    simpa [Nat.add_assoc, Nat.add_comm 1] using h (i + 1) (by simpa using hi)

theorem streamHolds_of_assetHolds {bs : List Bool} (hlen : bs.length ≤ 2 ^ 32) (h : assetHolds p src bs) :
    StreamHolds p src 0 bs := by
  refine streamHolds_of_forall fun i hi => ?_
  obtain ⟨b, hread, hbit⟩ := h i hi
  rw [Nat.zero_add, streamBit, hread, Option.map_some, hbit]
  exact ⟨hi.trans_le hlen, rfl⟩

/-- Taking bit `i` of the current byte (R161). -/
theorem takeBit_twoPow (byte : Byte) {i : Nat} (hi : i < 8) (pos : Word) (acc : Byte) (nacc : BitVec 4) :
    Rle.takeBit { byte, bit := BitVec.twoPow 9 i, pos, acc, nacc } =
      (byte.getLsbD i, { byte, bit := BitVec.twoPow 9 (i + 1), pos, acc, nacc }) := by
  have hmask : BitVec.twoPow 9 i ≠ 0 := fun h => by
    simpa [show i < 9 by omega] using congrArg (BitVec.getLsbD · i) h
  have hnext : BitVec.twoPow 9 i <<< 1 = BitVec.twoPow 9 (i + 1) := by
    rw [BitVec.twoPow, BitVec.twoPow, BitVec.shiftLeft_add]
  have hbit : (byte.zeroExtend 9).getLsbD i = byte.getLsbD i := by
    simp [show i < 9 by omega]
  rw [Rle.takeBit, hnext, BitVec.and_twoPow, hbit]
  cases byte.getLsbD i
  · rfl
  · rw [if_pos rfl, decide_eq_true hmask]

/-- The current byte is used up where all of the bytes fetched have been taken. -/
theorem bit_after_eq_used_iff {k : Nat} {px : List Bool} : (Rle.after p src k px).bit = 0x100 ↔ k % 8 = 0 := by
  have hused : (0x100 : BitVec 9) = BitVec.twoPow 9 8 := rfl
  rw [Rle.after, hused, ← BitVec.toNat_inj, BitVec.toNat_twoPow_of_lt (by omega), BitVec.toNat_twoPow_of_lt (by omega),
    Nat.pow_right_inj (by decide)]
  omega

theorem read_eq_of_assetRead_eq_some {a : Nat} {v : Byte} (h : assetRead p a = some v) : p.asset.read a = v := by
  unfold assetRead at h
  split_ifs at h
  exact Option.some.inj h

/-- The bit reader takes bit `k` of the stream; it fetches a byte where `k` is the first bit of one. -/
theorem nextBit_after {k : Nat} {b : Bool} (px : List Bool) (hk : k < 2 ^ 32) (hb : streamBit p src k = some b) :
    nextBit p src (Rle.after p src k px) = .ok b (Rle.after p src (k + 1) px) := by
  obtain ⟨v, hread, rfl⟩ := Option.map_eq_some_iff.1 hb
  have hv := read_eq_of_assetRead_eq_some hread
  by_cases h0 : k % 8 = 0
  · have hpos : (BitVec.ofNat 32 ((k + 7) / 8)).toNat = k / 8 := by
      rw [BitVec.toNat_ofNat]; omega
    have hfirst : (0x01 : BitVec 9) = BitVec.twoPow 9 0 := rfl
    rw [nextBit, if_pos (bit_after_eq_used_iff.2 h0)]
    simp only [Rle.after, hpos, hread, hfirst, takeBit_twoPow v (show 0 < 8 by omega), h0, Nat.add_sub_cancel, hv,
      show (k + 1 + 7) / 8 = (k + 7) / 8 + 1 by omega, show (k + 1 + 7) % 8 = 0 by omega, BitVec.ofNat_add,
      Nat.succ_ne_zero, if_false]
    rfl
  · rw [nextBit, if_neg (mt bit_after_eq_used_iff.1 h0)]
    simp only [Rle.after, show (k + 7) % 8 + 1 = k % 8 by omega, takeBit_twoPow _ (Nat.mod_lt k (show 0 < 8 by omega)),
      show k ≠ 0 by omega, if_false, show (k - 1) / 8 = k / 8 by omega, hv, Nat.add_sub_cancel, Nat.succ_ne_zero,
      show (k + 1 + 7) / 8 = (k + 7) / 8 by omega, show (k + 1 + 7) % 8 = k % 8 by omega]

/-! ### Fields, selectors and runs (R161 to R163) -/

@[simp] theorem length_fieldBits (n v : Nat) : (fieldBits n v).length = n := by simp [fieldBits]

theorem fieldBits_succ (n v : Nat) : fieldBits (n + 1) v = v.testBit 0 :: fieldBits n (v / 2) := by
  simp only [fieldBits, List.range_succ_eq_map, List.map_cons, List.map_map, Function.comp_def, Nat.testBit_succ]

theorem nextBits_after {n v k : Nat} (px : List Bool) (h : StreamHolds p src k (fieldBits n v)) :
    nextBits p src n (Rle.after p src k px) = .ok (v % 2 ^ n) (Rle.after p src (k + n) px) := by
  induction n generalizing v k with
  | zero => simp [nextBits, Nat.mod_one]
  | succ n ih =>
    rw [fieldBits_succ] at h
    obtain ⟨⟨hk, hbit⟩, hrest⟩ := h
    have hvalue : (v.testBit 0).toNat + 2 * (v / 2 % 2 ^ n) = v % 2 ^ (n + 1) := by
      rw [Nat.pow_succ', Nat.mod_mul, Nat.testBit_zero]
      cases Nat.mod_two_eq_zero_or_one v with
      | inl h0 => simp [h0]
      | inr h1 => simp [h1]
    rw [nextBits, nextBit_after px hk hbit]
    simp only [ih hrest, hvalue, Nat.add_assoc, Nat.add_comm 1]

section
variable {left n : Nat} {r q : Rle}

theorem readSelector_of_one (h : nextBit p src r = .ok true q) : readSelector p src left n r = .ok n q := by
  cases left <;> rw [readSelector, h]

theorem readSelector_succ_of_zero (h : nextBit p src r = .ok false q) :
    readSelector p src (left + 1) n r = readSelector p src left (n + 2) q := by
  rw [readSelector, h]

theorem readSelector_zero_of_zero (h : nextBit p src r = .ok false q) : readSelector p src 0 n r = .err .stream q := by
  rw [readSelector, h]

end

theorem readSelector_after {z left n k : Nat} (px : List Bool) (hz : z ≤ left)
    (h : StreamHolds p src k (List.replicate z false ++ [true])) :
    readSelector p src left n (Rle.after p src k px) = .ok (n + 2 * z) (Rle.after p src (k + z + 1) px) := by
  induction z generalizing left n k with
  | zero =>
    obtain ⟨⟨hk, hbit⟩, -⟩ := h
    exact readSelector_of_one (nextBit_after px hk hbit)
  | succ z ih =>
    obtain ⟨⟨hk, hbit⟩, hrest⟩ := h
    obtain ⟨left, rfl⟩ := Nat.exists_eq_add_of_le' (Nat.one_le_of_lt hz)
    rw [readSelector_succ_of_zero (nextBit_after px hk hbit), ih (Nat.le_of_succ_le_succ hz) hrest,
      show n + 2 + 2 * z = n + 2 * (z + 1) by omega, show k + 1 + z + 1 = k + (z + 1) + 1 by omega]

/-- One zero bit more than a selector may have (R168). -/
theorem readSelector_after_of_too_long {left n k : Nat} (px : List Bool)
    (h : StreamHolds p src k (List.replicate (left + 1) false)) :
    ∃ q, readSelector p src left n (Rle.after p src k px) = .err .stream q := by
  induction left generalizing n k with
  | zero =>
    obtain ⟨⟨hk, hbit⟩, -⟩ := h
    exact ⟨_, readSelector_zero_of_zero (nextBit_after px hk hbit)⟩
  | succ left ih =>
    obtain ⟨⟨hk, hbit⟩, hrest⟩ := h
    rw [readSelector_succ_of_zero (nextBit_after px hk hbit)]
    exact ih hrest

theorem StreamRun.length_bits (r : StreamRun) : r.bits.length = r.z + 1 + (1 + 2 * r.z) := by
  simp [StreamRun.bits]
  omega

theorem readRun_after {k : Nat} {r : StreamRun} (px : List Bool) (hr : r.ok) (h : StreamHolds p src k r.bits) :
    readRun p src (Rle.after p src k px) = .ok r.len (Rle.after p src (k + r.bits.length) px) := by
  obtain ⟨hz, hpos, hfits⟩ := hr
  obtain ⟨hselector, hvalue⟩ := streamHolds_append.1 h
  rw [List.length_append, List.length_replicate, List.length_singleton] at hvalue
  have hlen : (r.len - 1) % 2 ^ (1 + 2 * r.z) + 1 = r.len := by
    rw [Nat.mod_eq_of_lt (by omega)]; omega
  rw [readRun, readSelector_after px hz hselector]
  simp only [Nat.add_assoc] at hvalue ⊢
  simp only [nextBits_after px hvalue, hlen, StreamRun.length_bits, Nat.add_assoc]

theorem readRun_after_of_too_long {k : Nat} (px : List Bool) (h : StreamHolds p src k (List.replicate 9 false)) :
    ∃ q, readRun p src (Rle.after p src k px) = .err .stream q := by
  obtain ⟨q, hq⟩ := readSelector_after_of_too_long (n := 1) px h
  exact ⟨q, by rw [readRun, hq]⟩

/-! ### Header and runs (R162, R167) -/

theorem length_headerBits (width height : Nat) (c1 : Bool) : (headerBits width height c1).length = 17 := by
  simp [headerBits]

theorem readHeader_fresh {width height : Nat} {c1 : Bool} (hw : 1 ≤ width ∧ width ≤ 256)
    (hh : 1 ≤ height ∧ height ≤ 256) (h : StreamHolds p src 0 (headerBits width height c1)) :
    readHeader p src Rle.fresh = .ok (width, height, c1) (Rle.after p src 17 []) := by
  obtain ⟨hsizes, hcolour⟩ := streamHolds_append.1 h
  obtain ⟨hwidth, hheight⟩ := streamHolds_append.1 hsizes
  have hc : [c1] = fieldBits 1 c1.toNat := by cases c1 <;> rfl
  rw [hc] at hcolour
  simp only [length_fieldBits, List.length_append, Nat.zero_add] at hheight hcolour
  have hv : decide (c1.toNat % 2 ^ 1 = 1) = c1 := by cases c1 <;> rfl
  have hw8 : (width - 1) % 2 ^ 8 + 1 = width := by omega
  have hh8 : (height - 1) % 2 ^ 8 + 1 = height := by omega
  rw [readHeader, ← Rle.after_zero_nil (p := p) (src := src), nextBits_after [] hwidth]
  simp only [Nat.zero_add, nextBits_after [] hheight, nextBits_after [] hcolour, hv, hw8, hh8]

theorem decodeRuns_of_remaining_zero (fuel : Nat) (colour : Bool) (r : Rle) (out : List Byte) :
    decodeRuns p src fuel 0 colour r out = .ok out.reverse r := by
  cases fuel with
  | zero => rfl
  | succ fuel => rw [decodeRuns, if_pos rfl]

theorem decodeRuns_succ_of_readRun_eq_ok {fuel remaining run : Nat} {colour : Bool} {r q : Rle} {out : List Byte}
    (h : readRun p src r = .ok run q) (hpos : 0 < remaining) :
    decodeRuns p src (fuel + 1) remaining colour r out =
      if run > remaining then .err .stream q
      else decodeRuns p src fuel (remaining - run) (!colour) (emitRun colour run q out).1 (emitRun colour run q out).2 := by
  rw [decodeRuns, if_neg hpos.ne', h]

theorem decodeRuns_succ_of_readRun_eq_err {fuel remaining : Nat} {colour : Bool} {r q : Rle} {out : List Byte}
    {e : ErrorKind} (h : readRun p src r = .err e q) (hpos : 0 < remaining) :
    decodeRuns p src (fuel + 1) remaining colour r out = .err e q := by
  rw [decodeRuns, if_neg hpos.ne', h]

/-- The loop goes through well-formed runs, each in one pass. -/
theorem decodeRuns_after {rs : List StreamRun} (hrs : ∀ r ∈ rs, r.ok) {k : Nat}
    (h : StreamHolds p src k (runsBits rs)) (fuel remaining : Nat) (colour : Bool) (px : List Bool) :
    ∃ colour', decodeRuns p src (fuel + rs.length) (remaining + runsLength rs) colour (Rle.after p src k px) (flushed px) =
      decodeRuns p src fuel remaining colour' (Rle.after p src (k + (runsBits rs).length) (px ++ runsPixels colour rs))
        (flushed (px ++ runsPixels colour rs)) := by
  induction rs generalizing k colour px with
  | nil => exact ⟨colour, by simp [runsLength, runsBits, runsPixels]⟩
  | cons r rs ih =>
    obtain ⟨hr, hrs⟩ := List.forall_mem_cons.1 hrs
    rw [runsBits, List.flatMap_cons] at h
    obtain ⟨hfirst, hrest⟩ := streamHolds_append.1 h
    obtain ⟨colour', heq⟩ := ih hrs hrest (!colour) (px ++ List.replicate r.len colour)
    have hlength : remaining + runsLength (r :: rs) = r.len + (remaining + runsLength rs) := by
      simp [runsLength]
      omega
    have hbits : (runsBits (r :: rs)).length = r.bits.length + (runsBits rs).length := by simp [runsBits]
    have ⟨_, hpos, _⟩ := hr
    refine ⟨colour', ?_⟩
    rw [List.length_cons, ← Nat.add_assoc, hlength,
      decodeRuns_succ_of_readRun_eq_ok (readRun_after px hr hfirst) (by omega), if_neg (by omega),
      Nat.add_sub_cancel_left, emitRun_after, heq, hbits, runsPixels, List.append_assoc, Nat.add_assoc]

/-! ### The whole stream -/

theorem decodeStream_of_decodeRuns_eq_ok {width height : Nat} {colour : Bool} {r r' : Rle} {bs : List Byte}
    (hheader : readHeader p src Rle.fresh = .ok (width, height, colour) r)
    (hruns : decodeRuns p src (width * 8 * ceil8 height) (width * 8 * ceil8 height) colour r [] = .ok bs r') :
    decodeStream p src = .ok ⟨width, bs⟩ r' := by
  rw [decodeStream, hheader]
  simp only [hruns]

theorem decodeStream_of_decodeRuns_eq_err {width height : Nat} {colour : Bool} {r r' : Rle} {e : ErrorKind}
    (hheader : readHeader p src Rle.fresh = .ok (width, height, colour) r)
    (hruns : decodeRuns p src (width * 8 * ceil8 height) (width * 8 * ceil8 height) colour r [] = .err e r') :
    decodeStream p src = .err e r' := by
  rw [decodeStream, hheader]
  simp only [hruns]

theorem length_runsPixels (c : Bool) (rs : List StreamRun) : (runsPixels c rs).length = runsLength rs := by
  induction rs generalizing c with
  | nil => rfl
  | cons r rs ih => simp [runsPixels, ih, runsLength]

theorem length_le_runsLength {rs : List StreamRun} (hrs : ∀ r ∈ rs, r.ok) : rs.length ≤ runsLength rs := by
  induction rs with
  | nil => simp
  | cons r rs ih =>
    obtain ⟨⟨-, hpos, -⟩, hrs⟩ := List.forall_mem_cons.1 hrs
    have := ih hrs
    simp only [runsLength, List.map_cons, List.sum_cons, List.length_cons] at this ⊢
    omega

/-- A run takes at most 26 bits (R163). -/
theorem length_runsBits_le {rs : List StreamRun} (hrs : ∀ r ∈ rs, r.ok) : (runsBits rs).length ≤ 26 * rs.length := by
  induction rs with
  | nil => simp [runsBits]
  | cons r rs ih =>
    obtain ⟨⟨hz, -⟩, hrs⟩ := List.forall_mem_cons.1 hrs
    have hbits := r.length_bits
    have hrest := ih hrs
    simp only [runsBits, List.flatMap_cons, List.length_append, List.length_cons] at hrest ⊢
    omega

/-- An image has at most 65536 pixels (R164), so the runs of a stream are well within the count of `RLE_POS`. -/
theorem length_stream_le {width height : Nat} (hw : width ≤ 256) (hh : height ≤ 256) (c1 : Bool) {rs : List StreamRun}
    (hrs : ∀ r ∈ rs, r.ok) (hfit : runsLength rs ≤ width * 8 * ceil8 height) :
    (headerBits width height c1 ++ runsBits rs).length ≤ 2 ^ 21 := by
  have hpixels : width * 8 * ceil8 height ≤ 256 * 8 * 32 :=
    Nat.mul_le_mul (by omega) (by unfold ceil8; omega)
  have hbits := length_runsBits_le hrs
  have hcount := length_le_runsLength hrs
  rw [List.length_append, length_headerBits]
  omega

section
variable {width height missing : Nat} {c1 : Bool} {rs : List StreamRun}

/-- Well-formed runs that leave `missing` pixels: the loop gets to the end of them and has a pass left for each of these. -/
theorem decodeRuns_of_wellFormed (hrs : ∀ r ∈ rs, r.ok) (hpixels : missing + runsLength rs = width * 8 * ceil8 height)
    (h : StreamHolds p src 0 (headerBits width height c1 ++ runsBits rs)) :
    ∃ fuel colour, missing ≤ fuel ∧
      decodeRuns p src (width * 8 * ceil8 height) (width * 8 * ceil8 height) c1 (Rle.after p src 17 []) [] =
        decodeRuns p src fuel missing colour
          (Rle.after p src (headerBits width height c1 ++ runsBits rs).length (runsPixels c1 rs))
          (flushed (runsPixels c1 rs)) := by
  obtain ⟨-, hruns⟩ := streamHolds_append.1 h
  rw [length_headerBits, Nat.zero_add] at hruns
  have hcount := length_le_runsLength hrs
  obtain ⟨fuel, hfuel⟩ := Nat.exists_eq_add_of_le' (show rs.length ≤ width * 8 * ceil8 height by omega)
  obtain ⟨colour, heq⟩ := decodeRuns_after hrs hruns fuel missing c1 []
  rw [← hfuel, hpixels] at heq
  rw [List.length_append, length_headerBits]
  exact ⟨fuel, colour, by omega, heq⟩

variable (hw : 1 ≤ width ∧ width ≤ 256) (hh : 1 ≤ height ∧ height ≤ 256) (hrs : ∀ r ∈ rs, r.ok)
  (h : StreamHolds p src 0 (headerBits width height c1 ++ runsBits rs))
include hw hh hrs h

theorem decodeStream_of_wellFormed (hpixels : runsLength rs = width * 8 * ceil8 height) :
    decodeStream p src = .ok ⟨width, (flushed (runsPixels c1 rs)).reverse⟩
      (Rle.after p src (headerBits width height c1 ++ runsBits rs).length (runsPixels c1 rs)) := by
  obtain ⟨hheader, -⟩ := streamHolds_append.1 h
  obtain ⟨fuel, colour, -, hruns⟩ := decodeRuns_of_wellFormed hrs ((Nat.zero_add _).trans hpixels) h
  rw [decodeRuns_of_remaining_zero] at hruns
  exact decodeStream_of_decodeRuns_eq_ok (readHeader_fresh hw hh hheader) hruns

/-- After well-formed runs that do not fill the image, an error of the next pass is the error of the stream. -/
theorem decodeStream_of_malformed (hpixels : runsLength rs < width * 8 * ceil8 height) {q : Rle}
    (hbad : ∀ fuel colour, decodeRuns p src (fuel + 1) (width * 8 * ceil8 height - runsLength rs) colour
      (Rle.after p src (headerBits width height c1 ++ runsBits rs).length (runsPixels c1 rs))
      (flushed (runsPixels c1 rs)) = .err .stream q) :
    decodeStream p src = .err .stream q := by
  obtain ⟨hheader, -⟩ := streamHolds_append.1 h
  obtain ⟨fuel, colour, hfuel, hruns⟩ := decodeRuns_of_wellFormed hrs (Nat.sub_add_cancel hpixels.le) h
  obtain ⟨fuel, rfl⟩ := Nat.exists_eq_add_of_le' (show 1 ≤ fuel by omega)
  rw [hbad] at hruns
  exact decodeStream_of_decodeRuns_eq_err (readHeader_fresh hw hh hheader) hruns

end

/-- The pixels of a raw bitmap of the flushed bytes are the pixels emitted. -/
theorem getLsbD_flushed {px : List Bool} {n : Nat} (hn : n < 8 * (px.length / 8)) :
    ((flushed px).reverse.getD (n / 8) 0).getLsbD (n % 8) = px.getD n false := by
  have hbyte : (flushed px).reverse.getD (n / 8) 0 = pixelByte px (n / 8) := by
    simp [flushed, show n / 8 < px.length / 8 by omega]
  rw [hbyte, getLsbD_pixelByte _ _ (Nat.mod_lt n (by decide)), Nat.div_add_mod]

end

/-- Settles O34: the decoder ends with all pixels of the runs emitted, and `flushed` packs them. -/
theorem decodeWellFormed : Obligations.DecodeWellFormed := by
  intro p src width height c1 rs hw1 hw hh1 hh hrs hpixels hasset
  have hbound := length_stream_le hw hh c1 hrs hpixels.le
  have hstream := streamHolds_of_assetHolds (by omega) hasset
  have hlen : (runsPixels c1 rs).length = 8 * (width * ceil8 height) := by
    rw [length_runsPixels, hpixels]
    ring
  refine ⟨_, _, decodeStream_of_wellFormed ⟨hw1, hw⟩ ⟨hh1, hh⟩ hrs hstream hpixels, rfl, ?_, fun n hn => ?_, ?_⟩
  · simp [flushed, hlen]
  · refine getLsbD_flushed ?_
    rw [hlen, Nat.mul_div_cancel_left _ (by decide)]
    rwa [← hlen, length_runsPixels, hpixels]
  · rw [Rle.after, BitVec.toNat_ofNat]
    omega

/-- Settles O35: the decoder gets to the end of the well-formed runs, and its next pass raises the error. -/
theorem decodeMalformed : Obligations.DecodeMalformed := by
  intro p src width height c1 rs hw1 hw hh1 hh hrs hpixels
  have hbound := length_stream_le hw hh c1 hrs hpixels.le
  have hmissing : 0 < width * 8 * ceil8 height - runsLength rs := Nat.sub_pos_of_lt hpixels
  refine ⟨fun r hr hlong hasset => ?_, fun hasset => ?_⟩
  · have hbits : r.bits.length ≤ 26 := by
      obtain ⟨hz, -⟩ := hr
      have := r.length_bits
      omega
    have hstream := streamHolds_of_assetHolds (by rw [List.length_append]; omega) hasset
    obtain ⟨hstart, hrun⟩ := streamHolds_append.1 hstream
    rw [Nat.zero_add] at hrun
    exact ⟨_, decodeStream_of_malformed ⟨hw1, hw⟩ ⟨hh1, hh⟩ hrs hstart hpixels fun fuel colour => by
      rw [decodeRuns_succ_of_readRun_eq_ok (readRun_after _ hr hrun) hmissing, if_pos hlong]⟩
  · have hstream := streamHolds_of_assetHolds (by rw [List.length_append, List.length_replicate]; omega) hasset
    obtain ⟨hstart, hrun⟩ := streamHolds_append.1 hstream
    rw [Nat.zero_add] at hrun
    obtain ⟨q, hq⟩ := readRun_after_of_too_long (runsPixels c1 rs) hrun
    exact ⟨q, decodeStream_of_malformed ⟨hw1, hw⟩ ⟨hh1, hh⟩ hrs hstart hpixels fun fuel colour =>
      decodeRuns_succ_of_readRun_eq_err hq hmissing⟩

end Sys2Proof.Machine
end

section
/-!
PROOFS. DRAWCOMPRESSED of a stream that decodes (44_bitmap_rle.md R166, R167): it draws the decoded column bytes as the raw
blitter draws a bitmap, and of a well-formed stream these are the pixels of its runs.
-/

namespace Sys2Proof.Machine

/-- A header gives a width of at least 1 (R162). -/
theorem width_pos_of_readHeader {p : Params} {src width height : Nat} {colour : Bool} {r q : Rle}
    (h : readHeader p src r = .ok (width, height, colour) q) : 0 < width := by
  unfold readHeader at h
  split at h
  · cases h
  · split at h
    · cases h
    · split at h
      · cases h
      · cases h
        exact Nat.succ_pos _

theorem width_pos_of_decodeStream {p : Params} {src : Nat} {img : Image} {r : Rle} (h : decodeStream p src = .ok img r) :
    0 < img.width := by
  unfold decodeStream at h
  split at h
  · cases h
  · next hheader =>
    split at h
    · cases h
    · cases h
      exact width_pos_of_readHeader hheader

section
variable {s : State} {x y : Half} {src : Word} {c : Colour} {img : Image} {r : Rle}

/-- The points that a decoded image plots. -/
def Image.points (img : Image) (x y : Half) : List (Int × Int) := blitPoints x.toInt y.toInt img.width 0 img.bytes

theorem exec_drawcompressed_of_ok (hd : decodeStream s.params src.toNat = .ok img r) :
    exec (.drawcompressed x y src c) s =
      .next ({ s with rle := r }.drawn (plot s.params c (img.points x y))) := by
  have hblit : blitBytes s.params c (sext16 x) (sext16 y) img.width 0 img.bytes =
      plot s.params c (img.points x y) := funext (blitBytes_eq_plot s.params c _ _ _ 0 _)
  have hd' : decodeStream s.params (zext32 src) = .ok img r := hd
  simp only [exec, execDrawcompressed, hd', hblit]

theorem drawcompressed_recoloured (hd : decodeStream s.params src.toNat = .ok img r) :
    s.Recoloured ({ s with rle := r }.drawn (plot s.params c (img.points x y))) c
      fun px py => bitmapPixel img.width img.bytes (px - x.toInt) (py - y.toInt) :=
  (State.recoloured_plot { s with rle := r } c (nodup_blitPoints ..)).congr fun _ _ _ =>
    mem_blitPoints_iff_bitmapPixel fun h0 => absurd h0 (width_pos_of_decodeStream hd).ne'

/-- Settles O36: DRAWCOMPRESSED plots the points of the decoded image, each once. -/
theorem drawcompressed : Obligations.Drawcompressed := fun x y src c =>
  ⟨fun hasPacer => decode_encode_of_not_pacer hasPacer (i := .drawcompressed x y src c) rfl, fun s img r hd =>
    have ⟨hframe, hother⟩ := State.onlyDrew_drawn { s with rle := r } (plot s.params c (img.points x y))
    ⟨_, exec_drawcompressed_of_ok hd, hframe, hother, drawcompressed_recoloured hd⟩⟩

end

/-- The pixels of a raw bitmap whose bytes pack the pixels `px` (R166): pixel `(col, row)` is pixel number
`(row div 8) * width * 8 + col * 8 + row mod 8`. -/
theorem bitmapPixel_iff_of_packed {width bands : Nat} {bs : List Byte} {px : List Bool} (hlen : bs.length = width * bands)
    (hpacked : ∀ n < width * 8 * bands, (bs.getD (n / 8) 0).getLsbD (n % 8) = px.getD n false) {col row : Int} :
    bitmapPixel width bs col row ↔ (0 ≤ col ∧ col < width) ∧ (0 ≤ row ∧ row < 8 * bands) ∧
      px.getD ((row / 8).toNat * width * 8 + col.toNat * 8 + (row % 8).toNat) false = true := by
  rw [bitmapPixel, and_assoc (a := 0 ≤ row)]
  refine and_congr_right fun hcol => and_congr_right fun hrow => ?_
  have hbyte := band_mul_add_lt_iff (bands := bands) (band := (row / 8).toNat) (col := col.toNat) (w := width) (by omega)
  have hbit : (row % 8).toNat < 8 := by omega
  rw [← Nat.add_mul]
  generalize (row / 8).toNat * width + col.toNat = k at hbyte
  by_cases hin : row < 8 * bands
  · have hn : k * 8 + (row % 8).toNat < width * 8 * bands := by
      have := hbyte.2 (by omega)
      rw [Nat.mul_right_comm]
      omega
    have hdiv : (k * 8 + (row % 8).toNat) / 8 = k := by omega
    have hmod : (k * 8 + (row % 8).toNat) % 8 = (row % 8).toNat := by omega
    rw [← hpacked _ hn, hdiv, hmod, and_iff_right hin]
  · have hout : bs.getD k 0 = 0 := List.getD_eq_default _ _ (by omega)
    rw [hout]
    exact iff_of_false (by simp) fun h => hin h.1

/-- Settles O37: the stream decodes by `decodeWellFormed`, and the bitmap of its bytes has the pixels of its runs. -/
theorem drawcompressedWellFormed : Obligations.DrawcompressedWellFormed := by
  intro x y src c s width height c1 rs hw1 hw hh1 hh hrs hpixels hasset
  obtain ⟨img, r, hd, rfl, hlen, hpacked, -⟩ :=
    decodeWellFormed s.params src.toNat width height c1 rs hw1 hw hh1 hh hrs hpixels hasset
  obtain ⟨t, ht, hframe, hother, hpix⟩ := (drawcompressed x y src c).2 s img r hd
  refine ⟨t, ht, ?_, hother, hpix.congr fun px py _ => ?_⟩
  · rw [hframe]
  · rw [bitmapPixel_iff_of_packed hlen hpacked]
    exact and_congr (by omega) (and_congr_left fun _ => by omega)

end Sys2Proof.Machine
end

section
/-!
PROOFS. The display swap controller (45_swap_controller.md): an equation for each case of ENABLEDB, PRESENT and WAITP, the end of
a held command, and that SinkDone commutes with every command that has no hold.
-/

namespace Sys2Proof

/-! ### The frame handed over (R182) -/

theorem Memory.length_bytes (m : Memory) (size : Nat) : (m.bytes size).length = size := by
  simp [Memory.bytes]

theorem Memory.getElem?_bytes (m : Memory) {size i : Nat} (hi : i < size) : (m.bytes size)[i]? = some (m.read i) := by
  simp [Memory.bytes, hi]

namespace Machine

section
variable {s : State}

/-! ### ENABLEDB (R181) -/

theorem exec_enabledb_of_double (hmode : s.mode = .doubleBuffer) : exec .enabledb s = .next s.finish := by
  simp [exec, execEnabledb, hmode]

theorem exec_enabledb_of_buf1 (hmode : s.mode = .singleBuffer) (hbuf1 : s.params.hasBuf1 = true) :
    exec .enabledb s = .next { s with mode := .doubleBuffer }.finish := by
  simp [exec, execEnabledb, hmode, hbuf1]

/-- Without a second buffer `ERR_ALLOC` is the only flag that is raised. -/
theorem exec_enabledb_of_no_buf1 (hmode : s.mode = .singleBuffer) (hbuf1 : s.params.hasBuf1 = false) :
    exec .enabledb s = .next { s with errAlloc := true, execBit := false } := by
  simp [exec, execEnabledb, hmode, hbuf1, State.raise]

/-- Settles O39: an equation for each of the three cases. -/
theorem enabledb : Obligations.Enabledb := by
  refine ⟨fun hasPacer => decode_encode_of_not_pacer hasPacer (i := .enabledb) rfl, fun s => ?_⟩
  cases hmode : s.mode with
  | doubleBuffer => exact ⟨_, exec_enabledb_of_double hmode, rfl, fun _ => ⟨hmode, rfl⟩, nofun, nofun⟩
  | singleBuffer =>
    cases hbuf1 : s.params.hasBuf1 with
    | true => exact ⟨_, exec_enabledb_of_buf1 hmode hbuf1, rfl, nofun, fun _ _ => ⟨rfl, rfl⟩, nofun⟩
    | false => exact ⟨_, exec_enabledb_of_no_buf1 hmode hbuf1, rfl, nofun, nofun, fun _ _ => ⟨hmode, rfl⟩⟩

/-! ### WAITP (R185) -/

theorem exec_waitp_of_busy (hbusy : s.sinkBusy = true) : exec .waitp s = .next s := by
  simp [exec, execWaitp, hbusy]

theorem exec_waitp_of_free (hfree : s.sinkBusy = false) : exec .waitp s = .next s.finish := by
  simp [exec, execWaitp, hfree]

/-- Settles O41: the two values of `SINK_BUSY`. -/
theorem waitp : Obligations.Waitp :=
  ⟨fun hasPacer => decode_encode_of_not_pacer hasPacer (i := .waitp) rfl,
    fun _ => ⟨exec_waitp_of_busy, exec_waitp_of_free⟩⟩

/-! ### PRESENT (R182, R184) -/

/-- The optional clear at the end of a PRESENT. -/
def State.clearIf (s : State) (clr : Bool) (k : BufIdx) : State := if clr then s.setBuf k Memory.cleared else s

section
variable (s : State) (clr : Bool) (k : BufIdx)

theorem State.clearIf_frame : s.clearIf clr k = { s with fb0 := (s.clearIf clr k).fb0, fb1 := (s.clearIf clr k).fb1 } := by
  cases clr <;> rfl

theorem State.buf_clearIf_ne {j : BufIdx} (hne : j ≠ k) : (s.clearIf clr k).buf j = s.buf j := by
  cases clr
  · rfl
  · exact s.buf_setBuf_ne k _ hne

theorem State.buf_clearIf_false : (s.clearIf false k).buf k = s.buf k := rfl

theorem State.read_clearIf_true (i : Nat) : ((s.clearIf true k).buf k).read i = 0 := by
  rw [State.clearIf, if_pos rfl, State.buf_setBuf_self, Memory.read_cleared]

end

variable (clr : Bool)

theorem exec_present_of_busy (hbusy : s.sinkBusy = true) : exec (.present clr) s = .next s := by
  cases hmode : s.mode <;> simp [exec, execPresent, presentSingle, presentDouble, hmode, hbusy]

theorem exec_present_single_first (hfree : s.sinkBusy = false) (hmode : s.mode = .singleBuffer) (hphase : s.phase = false) :
    exec (.present clr) s = .next { s.handOff .fb0 with phase := true } := by
  simp [exec, execPresent, presentSingle, hmode, hfree, hphase]

theorem exec_present_single_second (hfree : s.sinkBusy = false) (hmode : s.mode = .singleBuffer) (hphase : s.phase = true) :
    exec (.present clr) s = .next (s.clearIf clr .fb0).finish := by
  simp [exec, execPresent, presentSingle, hmode, hfree, hphase, State.clearIf]

theorem exec_present_double (hfree : s.sinkBusy = false) (hmode : s.mode = .doubleBuffer) :
    exec (.present clr) s =
      .next ({ s.handOff s.active with active := s.active.other }.clearIf clr s.active.other).finish := by
  simp [exec, execPresent, presentDouble, hmode, hfree, State.clearIf]

end

/-- Settles O40: an equation for each of the four cases; the optional clear is `State.clearIf`, the frame `Memory.bytes`. -/
theorem present : Obligations.Present := by
  refine fun clr => ⟨fun hasPacer => decode_encode_of_not_pacer hasPacer (i := .present clr) rfl, fun s =>
    ⟨exec_present_of_busy clr, fun hfree hmode hphase => ?_, fun hfree hmode hphase => ?_, fun hfree hmode => ?_⟩⟩
  · exact ⟨_, _, exec_present_single_first clr hfree hmode hphase, rfl, Memory.length_bytes _ _,
      fun _ => Memory.getElem?_bytes _⟩
  · have hfb1 : (s.clearIf clr .fb0).fb1 = s.fb1 := s.buf_clearIf_ne clr .fb0 (j := .fb1) (by decide)
    refine ⟨_, exec_present_single_second clr hfree hmode hphase, ?_, ?_, ?_⟩
    · rw [State.clearIf_frame, hfb1]
      rfl
    · rintro rfl
      exact s.buf_clearIf_false .fb0
    · rintro rfl i -
      exact s.read_clearIf_true .fb0 i
  · refine ⟨_, _, exec_present_double clr hfree hmode, ?_,
      ⟨Memory.length_bytes _ _, fun _ => Memory.getElem?_bytes _⟩, ?_, ?_, ?_⟩
    · rw [State.clearIf_frame]
      rfl
    · exact State.buf_clearIf_ne _ clr _ (BufIdx.ne_other _)
    · rintro rfl
      exact State.buf_clearIf_false _ s.active.other
    · rintro rfl i -
      exact State.read_clearIf_true _ s.active.other i

/-! ### A held command (R184, R188) -/

section
variable {s : State} {i : Instr}

/-- While a presentation is in flight, a command with a hold changes nothing. -/
theorem CanHold.exec_of_busy (hi : CanHold i) (hbusy : s.sinkBusy = true) : exec i s = .next s := by
  cases hi with
  | present clr => exact exec_present_of_busy clr hbusy
  | waitp => exact exec_waitp_of_busy hbusy

/-- With the sink free a command with a hold ends, a PRESENT in SINGLE_BUFFER once it is past its hand-off. -/
theorem CanHold.exec_of_free (hi : CanHold i) (hfree : s.sinkBusy = false)
    (hphase : s.mode = .singleBuffer → s.phase = true) :
    ∃ t, exec i s = .next t ∧ t.execBit = false := by
  cases hi with
  | waitp => exact ⟨_, exec_waitp_of_free hfree, rfl⟩
  | present clr =>
    cases hmode : s.mode with
    | singleBuffer => exact ⟨_, exec_present_single_second clr hfree hmode (hphase hmode), rfl⟩
    | doubleBuffer => exact ⟨_, exec_present_double clr hfree hmode, rfl⟩

/-- In SINGLE_BUFFER the presentation in flight is that of a PRESENT past its hand-off. -/
theorem State.SwapInv.phase_of_busy (hs : s.SwapInv) (hbusy : s.sinkBusy = true) (hmode : s.mode = .singleBuffer) :
    s.phase = true := by
  obtain ⟨-, -, -, -, hflight⟩ := hs
  obtain ⟨-, hphase, -⟩ := hflight hmode hbusy
  exact hphase

end

/-- Settles O42: a step of the core is a step of the held command, and the sink's step leaves the phase at which it ends. -/
theorem heldUntilSinkDone : Obligations.HeldUntilSinkDone := by
  intro s i hs hexec hbusy hd hi
  have hhold : CanHold i := by
    rcases hi with rfl | ⟨clr, rfl⟩
    · exact .waitp
    · exact .present clr
  obtain ⟨hrun, -⟩ := stepRunsDecoded
  obtain ⟨hsink, -⟩ := stepsWithoutCommand
  refine ⟨fun hcore => ?_, fun ts hturns hts => ?_⟩
  · rw [hrun s i ⟨hcore, hexec, hd⟩]
    exact hhold.exec_of_busy hbusy
  · have hruns : ({ s with turns := ts, sinkBusy := false } : State).Runs i := ⟨hts, hexec, hd⟩
    obtain ⟨u, hu, hended⟩ := hhold.exec_of_free (s := { s with turns := ts.tail, sinkBusy := false }) rfl
      (hs.phase_of_busy hbusy)
    exact ⟨u, hsink s ts hturns, (hrun _ i hruns).trans hu, hended⟩

/-! ### SinkDone and a command without a hold (R183, R224) -/

section
variable (s : State)

theorem tickEarly_sinkDone : tickEarly s.sinkDone = (tickEarly s).sinkDone := by
  simp only [tickEarly, apply_ite (State.answer · 0), apply_ite State.sinkDone]
  rfl

theorem pacerState_sinkDone (i : Instr) : pacerState i s.sinkDone = (pacerState i s).sinkDone := by
  cases i
  case tick =>
    unfold pacerState
    simp only [State.sinkDone_justRendered, State.sinkDone_clkMs, State.sinkDone_nextStart, tickEarly_sinkDone,
      apply_ite State.sinkDone]
    rfl
  all_goals rfl

theorem execState_sinkDone_of_pacer {i : Instr} (hi : i.isPacer = true) :
    execState i s.sinkDone = (execState i s).sinkDone := by
  have hexec : ∀ u : State, execState i u =
      if i.wellFormed u.params.hasPacer = true then pacerState i u else u.raise .illegal :=
    fun u => exec_eq_next_iff.1 (exec_pacer hi u)
  rw [hexec, hexec, State.sinkDone_params, pacerState_sinkDone, apply_ite State.sinkDone]
  rfl

/-- A command without a hold does not read `SINK_BUSY`, nor write it. -/
theorem execState_sinkDone {i : Instr} (hi : ¬ CanHold i) : execState i s.sinkDone = (execState i s).sinkDone := by
  cases i
  case setpixel | getpixel | clear | hline | vline | line | fillrect => rfl
  case drawbitmap =>
    simp only [execState, exec, execDrawbitmap, State.sinkDone_params]
    split <;> rfl
  case drawcompressed =>
    simp only [execState, exec, execDrawcompressed, State.sinkDone_params]
    split <;> rfl
  case enabledb =>
    simp only [execState, exec, execEnabledb, State.sinkDone_mode, State.sinkDone_params]
    split
    · rfl
    · rw [apply_ite State.sinkDone]
      rfl
  case present clr => exact absurd (.present clr) hi
  case waitp => exact absurd .waitp hi
  case setrate | tick | cpuload | everyn => exact execState_sinkDone_of_pacer s rfl

end

/-- Settles O43: the two orders lead to one state by `execState_sinkDone`. -/
theorem sinkDoneCommutes : Obligations.SinkDoneCommutes := by
  intro i s t hwaitp hpresent h
  obtain rfl := exec_eq_next_iff.1 h
  have hhold : ¬ CanHold i := by
    rintro (⟨clr⟩ | -)
    · exact hpresent clr rfl
    · exact hwaitp rfl
  exact exec_eq_next_iff.2 (execState_sinkDone s hhold)

end Machine

end Sys2Proof
end

section
/-!
PROOFS. The commands of the Frame Pacer: what each answers, and what it leaves unchanged (46_frame_pacer.md R201 to R208).
-/

namespace Sys2Proof

/-! ### Their words -/

/-- On hardware with the pacer the row of a command reads its word, whether or not it takes the operands (30_encoding.md R91). -/
theorem decode_true_encode (i : Instr) : decode true (encode i) = decodeRow i.opcode (encode i) := by
  obtain ⟨hopc, hzero⟩ := Laws.MustBeZero.all i
  rw [decode_of_opc hopc, if_neg (by simp), if_pos hzero]

/-- R87 (e). -/
theorem decode_encode_setrate_of_rateRange {rate : Half} (h : ¬(1 ≤ rate.toNat ∧ rate.toNat ≤ 1000)) :
    decode true (encode (.setrate rate)) = .error .rateRange := by
  have hc : (encode (.setrate rate)).c = rate := CommandWord.c_pack ..
  rw [decode_true_encode, Instr.opcode, decodeRow, hc, if_neg h]

/-- R87 (f). -/
theorem decode_encode_everyn_zero : decode true (encode (.everyn 0)) = .error .everyZero := by
  have hc : (encode (.everyn 0)).c = 0 := CommandWord.c_pack ..
  rw [decode_true_encode, Instr.opcode, decodeRow, hc]
  exact if_pos rfl

namespace Machine

section
variable {i : Instr} {s t : State}

theorem exec_pacer_of_wellFormed (hi : i.isPacer = true) (hlegal : i.wellFormed s.params.hasPacer = true) :
    exec i s = .next (pacerState i s) := by
  rw [exec_pacer hi, if_pos hlegal]

/-! ### The branches of TICK -/

theorem exec_tick (hp : s.params.hasPacer = true) : exec .tick s = .next (pacerState .tick s) :=
  exec_pacer_of_wellFormed rfl (Instr.wellFormed_tick.2 hp)

theorem pacerState_tick_of_rendered (hrendered : s.justRendered = true) : pacerState .tick s = tickMeasure s :=
  if_pos hrendered

theorem pacerState_tick_of_early (hready : s.justRendered = false) (hearly : s.clkMs.toNat < s.nextStart.toNat) :
    pacerState .tick s = tickEarly s := by
  have hnot : ¬s.justRendered = true := by simp [hready]
  exact (if_neg hnot).trans (if_pos hearly)

theorem pacerState_tick_of_due (hready : s.justRendered = false) (hdue : s.nextStart.toNat ≤ s.clkMs.toNat) :
    pacerState .tick s = tickGrant s := by
  have hnot : ¬s.justRendered = true := by simp [hready]
  exact (if_neg hnot).trans (if_neg (Nat.not_lt.2 hdue))

/-- What a TICK can do, on hardware with the pacer and without (R202; log 11). -/
theorem exec_tick_cases (h : exec .tick s = .next t) :
    s.params.hasPacer = true ∧
      (s.justRendered = true ∧ t = tickMeasure s ∨
        s.justRendered = false ∧ s.clkMs.toNat < s.nextStart.toNat ∧ t = tickEarly s ∨
        s.justRendered = false ∧ s.nextStart.toNat ≤ s.clkMs.toNat ∧ t = tickGrant s) ∨
    s.params.hasPacer = false ∧ t = s.raise .illegal := by
  rw [exec_pacer rfl] at h
  injection h with h
  subst h
  split_ifs with hlegal
  · refine .inl ⟨Instr.wellFormed_tick.1 hlegal, ?_⟩
    cases hrendered : s.justRendered with
    | true => exact .inl ⟨rfl, pacerState_tick_of_rendered hrendered⟩
    | false =>
      rcases Nat.lt_or_ge s.clkMs.toNat s.nextStart.toNat with hearly | hdue
      · exact .inr (.inl ⟨rfl, hearly, pacerState_tick_of_early hrendered hearly⟩)
      · exact .inr (.inr ⟨rfl, hdue, pacerState_tick_of_due hrendered hdue⟩)
  · exact .inr ⟨by simpa [Instr.wellFormed_tick] using hlegal, rfl⟩

/-- A TICK too early writes `RESULT` and `EXEC`, and asks for idle or does not (R205). -/
theorem tickEarly_frame (s : State) :
    tickEarly s = { s with out := (tickEarly s).out, result := 0, execBit := false } := by
  unfold tickEarly
  split_ifs
  · rfl
  · rfl

theorem tickEarly_frameCount (s : State) : (tickEarly s).frameCount = s.frameCount := by rw [tickEarly_frame]

theorem tickEarly_out_of_le (h : s.params.idleThresholdMs ≤ s.nextStart.toNat - s.clkMs.toNat) :
    (tickEarly s).out = s.out ++ [.idleReq] := by
  rw [tickEarly, if_pos h]
  rfl

theorem tickEarly_out_of_lt (h : s.nextStart.toNat - s.clkMs.toNat < s.params.idleThresholdMs) :
    (tickEarly s).out = s.out := by
  rw [tickEarly, if_neg (by omega)]
  rfl

/-- Of the branches of TICK only the grant answers 1. -/
theorem eq_tickGrant_of_result (hp : s.params.hasPacer = true) (h : exec .tick s = .next t) (hone : t.result = 1) :
    t = tickGrant s := by
  obtain ⟨-, ⟨-, rfl⟩ | ⟨-, -, rfl⟩ | ⟨-, -, hgrant⟩⟩ | ⟨hnone, -⟩ := exec_tick_cases h
  · cases hone
  · cases hone
  · exact hgrant
  · simp [hp] at hnone

/-- A TICK after a rendered frame measures, and answers 0 (R202). -/
theorem result_tick_of_rendered (hp : s.params.hasPacer = true) (hrendered : s.justRendered = true)
    (h : exec .tick s = .next t) : t.result = 0 := by
  rw [exec_tick hp, pacerState_tick_of_rendered hrendered] at h
  obtain rfl := Host.Outcome.next.inj h
  rfl

/-- A granted frame counts as rendered, so it is measured next (R202). -/
theorem tickGrant_justRendered (s : State) : (tickGrant s).justRendered = true := rfl

end

/-! ### Arithmetic modulo 2^32 -/

/-- A difference of clock values is reduced modulo 2^32 (R206). -/
theorem toNat_sub_eq_emod (a b : Word) : ((a - b).toNat : Int) = ((a.toNat : Int) - b.toNat) % 2 ^ 32 := by
  have := a.isLt
  have := b.isLt
  rw [BitVec.toNat_sub]
  omega

/-! ### The statements about one command -/

/-- Settles O46: the row takes the rates of `decodeEncode` and turns away the others; the period fits its register. -/
theorem setrate : Obligations.Setrate := by
  refine fun rate => ⟨fun hout => decode_encode_setrate_of_rateRange (by omega), fun hlo hhi => ?_⟩
  have hlegal : (Instr.setrate rate).wellFormed true = true := Instr.wellFormed_setrate.2 ⟨rfl, hlo, hhi⟩
  exact ⟨decodeEncode true _ hlegal, fun s hp =>
    ⟨_, exec_pacer_of_wellFormed rfl (hp ▸ hlegal), rfl, toNat_ofNat_period rate.toNat⟩⟩

/-- Settles O47: one lemma for each branch gives the state, and its registers are read off it. -/
theorem tick : Obligations.Tick := by
  refine ⟨decodeEncode true .tick (Instr.wellFormed_tick.2 rfl), fun s hp => ⟨_, exec_tick hp, ?_, ?_, ?_⟩⟩
  · intro hrendered
    rw [pacerState_tick_of_rendered hrendered]
    exact ⟨rfl, toNat_sub_eq_emod s.clkMs s.lastStart⟩
  · intro hready hearly
    rw [pacerState_tick_of_early hready hearly]
    exact ⟨tickEarly_frame s, tickEarly_out_of_le, tickEarly_out_of_lt⟩
  · intro hready hdue
    rw [pacerState_tick_of_due hready hdue]
    exact ⟨rfl, BitVec.toNat_add s.clkMs s.eachMs, BitVec.toInt_add s.frameCount 1⟩

/-- Settles O50: the load figure of a period that is not 0 is the quotient reduced to 32 bits. -/
theorem cpuload : Obligations.Cpuload := by
  refine ⟨decodeEncode true .cpuload (Instr.wellFormed_cpuload.2 rfl), fun s hp =>
    ⟨_, exec_pacer_of_wellFormed rfl (Instr.wellFormed_cpuload.2 hp), rfl, fun heach => ?_⟩⟩
  have hload : cpuLoad s = BitVec.ofNat 32 (s.lastDur.toNat * 100 / s.eachMs.toNat) := if_neg heach
  exact (congrArg BitVec.toNat hload).trans (BitVec.toNat_ofNat ..)

/-- Settles O51: `n` divides the signed count exactly where the remainder that EVERYN tests is 0. -/
theorem everyn : Obligations.Everyn := by
  refine ⟨decode_encode_everyn_zero, fun n hn => ?_⟩
  have hlegal : (Instr.everyn n).wellFormed true = true := Instr.wellFormed_everyn.2 ⟨rfl, hn⟩
  exact ⟨decodeEncode true _ hlegal, fun s hp =>
    ⟨_, exec_pacer_of_wellFormed rfl (hp ▸ hlegal), rfl, fun hdvd => if_pos (Int.emod_eq_zero_of_dvd hdvd),
      fun hndvd => if_neg fun hzero => hndvd (Int.dvd_of_emod_eq_zero hzero)⟩⟩

/-! ### The statements about grants -/

/-- Settles O48: a grant leaves a rendered frame, and the TICK after a rendered frame measures and answers 0. -/
theorem noTwoGrants : Obligations.NoTwoGrants := by
  intro s t u ms hp h hone h'
  obtain rfl := eq_tickGrant_of_result hp h hone
  exact result_tick_of_rendered (s := { tickGrant s with clkMs := ms }) hp (tickGrant_justRendered s) h'

/-- Settles O49: after reset no frame is rendered and the deadline is 0, so the clock is never too early. -/
theorem firstTickGrants : Obligations.FirstTickGrants := by
  intro p n ms _ hp
  have hgrant : pacerState .tick { State.atReset p n with clkMs := ms } =
      tickGrant { State.atReset p n with clkMs := ms } := pacerState_tick_of_due rfl (Nat.zero_le _)
  have hcount : (0xFFFFFFFF : Word) + 1 = 0 := by decide
  refine ⟨_, (exec_tick hp).trans (congrArg _ hgrant), rfl, hcount, rfl, fun hwrap => ?_, rfl⟩
  calc (ms + (State.atReset p n).eachMs).toNat
      = (ms.toNat + 1000 / p.defaultRate) % 2 ^ 32 := by rw [BitVec.toNat_add, atReset_eachMs_toNat]
    _ = ms.toNat + 1000 / p.defaultRate := Nat.mod_eq_of_lt hwrap

/-- A command leaves the frame count, or is a granting TICK. -/
theorem frameCount_exec_cases {i : Instr} {s t : State} (h : exec i s = .next t) :
    t.frameCount = s.frameCount ∨ i = .tick ∧ t = tickGrant s := by
  cases hi : i.isPacer with
  | false =>
    obtain rfl := exec_eq_next_iff.1 h
    exact .inl (congrArg PacerRegs.frameCount (pacer_execState s hi))
  | true =>
    cases i
    case tick =>
      obtain ⟨-, ⟨-, rfl⟩ | ⟨-, -, rfl⟩ | ⟨-, -, hgrant⟩⟩ | ⟨-, rfl⟩ := exec_tick_cases h
      · exact .inl rfl
      · exact .inl (tickEarly_frameCount s)
      · exact .inr ⟨rfl, hgrant⟩
      · exact .inl rfl
    case setrate | cpuload | everyn =>
      rw [exec_pacer hi] at h
      injection h with h
      subst h
      split_ifs
      · exact .inl rfl
      · exact .inl rfl
    all_goals cases hi

/-- The step of a command is its meaning, its turn taken. -/
theorem exec_of_runs {i : Instr} {s t : State} (hruns : s.Runs i) (h : step s = .next t) :
    exec i { s with turns := s.turns.tail } = .next t := by
  obtain ⟨hstep, -⟩ := stepRunsDecoded
  rw [← hstep s i hruns, h]

/-- Settles O52: a step other than reset that changes the count runs a command, and of those a granting TICK alone does. -/
theorem frameCountGrants : Obligations.FrameCountGrants := by
  refine ⟨fun p n => rfl, fun i s t h hne => ?_, fun s t hr h hne => ?_, fun s t hp h hone => ?_⟩
  · obtain ⟨rfl, rfl⟩ := (frameCount_exec_cases h).resolve_left hne
    exact ⟨rfl, rfl⟩
  · obtain ⟨hframe, -⟩ | ⟨i, hruns, -⟩ := step_noReset_cases hr h
    · exact absurd (congrArg State.frameCount hframe) hne
    · obtain ⟨rfl, rfl⟩ := (frameCount_exec_cases (exec_of_runs hruns h)).resolve_left hne
      exact ⟨hruns, rfl, rfl⟩
  · rw [eq_tickGrant_of_result hp h hone]
    rfl

end Machine

end Sys2Proof
end

section
/-!
PROOFS. No step stops the machine (60_exceptions.md R222), and the reset event (70_reset_and_hazards.md R250): the registers after
it as the host reads them, and that nothing is in flight for the sink to complete.
-/

namespace Sys2Proof.Machine

/-! ### Every step has a next state -/

/-- Settles O6: a command answers `execState`, and a move that runs no command has a next state already. -/
theorem nothingStops : Obligations.NothingStops := by
  refine ⟨fun i s => ⟨execState i s, exec_eq_next i s⟩, fun s => ?_⟩
  unfold step
  cases nextMove s with
  | done t => exact ⟨t, rfl⟩
  | run i t => exact ⟨execState i t, exec_eq_next i t⟩

/-! ### The reset event -/

theorem step_reset {s : State} {ts : List Turn} (hturns : s.turns = .reset :: ts) :
    step s = .next { s with turns := ts }.resetEvent := by
  simp [step, nextMove, hturns]

/-- R183: with nothing in flight the sink has nothing to complete. -/
theorem State.sinkDone_of_free {s : State} (hfree : s.sinkBusy = false) : s.sinkDone = s := by
  rw [State.sinkDone, ← hfree]

/-- A pacer register that holds 0 reads as 0 on every build. -/
@[simp] theorem State.pacerReg_zero (s : State) : s.pacerReg 0 = 0 := ite_self 0

/-- The frame count at reset is -1 (10_state.md R35). -/
theorem State.toInt_frameCount_resetEvent (s : State) : s.resetEvent.frameCount.toInt = -1 := by
  rw [State.resetEvent_frameCount]
  decide

theorem State.toNat_eachMs_resetEvent (s : State) : s.resetEvent.eachMs.toNat = 1000 / s.params.defaultRate :=
  toNat_ofNat_period s.params.defaultRate

/-- Reset clears every bit that `STATUS` shows. -/
theorem State.statusBits_resetEvent (s : State) : s.resetEvent.statusBits = List.replicate 12 false := by
  simp [State.statusBits]

/-- R250, R25: `STATUS` reads as 0 after reset. -/
theorem State.readReg_status_resetEvent (s : State) : s.resetEvent.readReg 0 = 0 := by
  change s.resetEvent.status = 0
  rw [State.status, State.statusBits_resetEvent]
  decide

/-- R250, R25: the deadline, the last start and the last duration read as 0 after reset, with the pacer or without. -/
theorem State.readReg_times_resetEvent (s : State) :
    s.resetEvent.readReg 4 = 0 ∧ s.resetEvent.readReg 5 = 0 ∧ s.resetEvent.readReg 6 = 0 :=
  ⟨State.pacerReg_zero _, State.pacerReg_zero _, State.pacerReg_zero _⟩

/-- Settles O9: the step is `State.resetEvent`, whose fields are the values of R35; the host's reads are those of
`registerFile` at these fields. -/
theorem resetEvent : Obligations.ResetEvent := by
  intro s ts hturns
  let t := { s with turns := ts }.resetEvent
  have heach : t.eachMs.toNat = 1000 / s.params.defaultRate := State.toNat_eachMs_resetEvent _
  obtain ⟨-, hresult, hwith, hwithout, -⟩ := registerFile t
  have hpacer (hp : t.params.hasPacer = true) :
      t.readReg 2 = 0xFFFFFFFF ∧ (t.readReg 3).toNat = 1000 / s.params.defaultRate := by
    obtain ⟨hcount, hperiod, -⟩ := hwith hp
    exact ⟨hcount, hperiod ▸ heach⟩
  have hnoPacer (hp : t.params.hasPacer = false) : t.readReg 2 = 0 ∧ t.readReg 3 = 0 :=
    ⟨hwithout hp 2 (by decide), hwithout hp 3 (by decide)⟩
  exact ⟨t, step_reset hturns, rfl, rfl, rfl, rfl, rfl, rfl, rfl, rfl, rfl, rfl, rfl, State.toInt_frameCount_resetEvent _,
    heach, rfl, rfl, rfl, rfl, rfl, rfl, State.sinkDone_of_free rfl, State.readReg_status_resetEvent _, hresult, hpacer,
    hnoPacer, State.readReg_times_resetEvent _⟩

end Sys2Proof.Machine
end
